-- ==== Sys2Proof/Word.lean ====
section
/-! DEFINITION. The words of the DDP packet framer: bytes, byte strings and the fixed-width unsigned
integers of spec/00_scope.md rules R14 and R15. -/

namespace Sys2Proof

/-- One byte, bits 7 (most significant) to 0 (R13). -/
abbrev Byte := BitVec 8

/-- `u16` of R14. -/
abbrev U16 := BitVec 16

/-- `u32` of R14. -/
abbrev U32 := BitVec 32

/-- `Bytes` of R15: a finite sequence of bytes, index 0 first. -/
abbrev Bytes := List Byte

/-- A text (`String` of R194 and R196): a finite sequence of Unicode scalar values. -/
abbrev Text := List Char

end Sys2Proof
end

