-- ==== Sys2Proof/Config.lean ====
section
/-! DEFINITION. What is fixed for one machine and never written (spec/10_state.md rule R40): the open
function parameters of rule R12 with the types they range over, the choices of the two open policies,
the free draw of the transport and the free content of the send buffer. Every function here is OPAQUE: no proof can see a value of it, so
what is proved holds for every such function. The numeric constants stand in Machine/Params.lean. -/

namespace Sys2Proof

/-- An untyped JSON value (R190). The spec gives no structure to it, so it is a name of one (log 6). -/
structure JsonValue where
  token : Nat
  deriving DecidableEq, Repr, Inhabited

/-- `ControlRec` of R192: the spec gives no field of it (log 6). -/
structure ControlRec where
  token : Nat
  deriving DecidableEq, Repr, Inhabited

/-- `ConfigRec` of R192: the spec gives no field of it (log 6). -/
structure ConfigRec where
  token : Nat
  deriving DecidableEq, Repr, Inhabited

/-- `StatusRec` of R192: the spec gives no field of it (log 6). -/
structure StatusRec where
  token : Nat
  deriving DecidableEq, Repr, Inhabited

/-- The opaque error a message serializer answers (R191, R242). -/
structure SerializationError where
  token : Nat
  deriving DecidableEq, Repr, Inhabited

/-- The opaque error `e` a `Transmit` answers (R36, R241). -/
structure TransportError where
  token : Nat
  deriving DecidableEq, Repr, Inhabited

/-- A resolved destination address: host and UDP port (R23). No rule inspects it (log 6). -/
structure Address where
  host : Nat
  port : U16
  deriving DecidableEq, Repr, Inhabited

/-- What one `Transmit` answers: `Ok` or `Err(e)` (R36). -/
inductive TxOutcome where
  | ok
  | err (e : TransportError)
  deriving DecidableEq, Repr, Inhabited

/-- The values of the parameter `VERSION0_DECODE` (R9). -/
inductive Version0Decode where
  | one
  | zero
  deriving DecidableEq, Repr

/-- The values of the parameter `OFFSET_OVERFLOW` (R10). -/
inductive OffsetOverflow where
  | wrap
  | fault
  deriving DecidableEq, Repr

namespace Config

/-- The free part of `JSON_PARSE` (R190). Machine/Message.lean adds the limits R190 states (log 4). -/
opaque jsonParse : Bytes → Option JsonValue

/-- `JSON_SERIALIZE` (R191), a free value (log 5). -/
opaque jsonSerialize : JsonValue → Except SerializationError Bytes

/-- `SCHEMA_CONTROL` (R192), a free value (log 5). -/
opaque schemaControl : JsonValue → Option ControlRec

/-- `SCHEMA_CONFIG` (R192), a free value (log 5). -/
opaque schemaConfig : JsonValue → Option ConfigRec

/-- `SCHEMA_STATUS` (R192), a free value (log 5). -/
opaque schemaStatus : JsonValue → Option StatusRec

/-- `SER_CONTROL` (R193), a free value (log 5). -/
opaque serControl : ControlRec → Except SerializationError Bytes

/-- `SER_CONFIG` (R193), a free value (log 5). -/
opaque serConfig : ConfigRec → Except SerializationError Bytes

/-- `SER_STATUS` (R193), a free value (log 5). -/
opaque serStatus : StatusRec → Except SerializationError Bytes

/-- The transport's outcome draw (R36, R40; I21): what the n-th `Transmit` of an instance answers where
the state lists no answer for it. A free value (log 3). -/
opaque transportDraw : Nat → TxOutcome

/-- The byte at each index of `SENDBUF` in the state at reset (R27, R270; I24 `any value`). A free value
(log 7). -/
opaque sendbufContent : Nat → Byte

end Config

end Sys2Proof
end

