-- ==== Sys2Proof/Syntax.lean ====
section
/-! DEFINITION. The values the commands carry (spec/30_encoding.md rules R70 to R82, 43_message_codec.md
rule R194, 41_header_codec.md rule R145), the 16 commands of rule R89, and the form in which the command
port presents one: an opcode byte with typed operands (rules R88, R94). -/

namespace Sys2Proof

/-- `PacketType` (R70): the version number (2 bits, R72) and five independent flags. -/
structure PacketType where
  version  : BitVec 2
  timecode : Bool
  storage  : Bool
  reply    : Bool
  query    : Bool
  push     : Bool
  deriving DecidableEq, Repr

/-- `DataType` (R74). -/
inductive DataType where
  | undefined
  | rgb
  | hsl
  | rgbw
  | grayscale
  deriving DecidableEq, Repr

/-- `DataSize` (R74). -/
inductive DataSize where
  | undefined
  | bits1
  | bits4
  | bits8
  | bits16
  | bits24
  | bits32
  deriving DecidableEq, Repr

/-- `PixelConfig` (R74). -/
structure PixelConfig where
  dataType        : DataType
  dataSize        : DataSize
  customerDefined : Bool
  deriving DecidableEq, Repr

/-- `ID` (R78): the source's closed set. -/
inductive ID where
  | reserved
  | default
  | custom (v : Byte)
  | control
  | config
  | status
  | dmx
  | broadcast
  deriving DecidableEq, Repr

/-- `Header` (R82). -/
structure Header where
  packetType     : PacketType
  sequenceNumber : Byte
  pixelConfig    : PixelConfig
  id             : ID
  offset         : U32
  length         : U16
  timecode       : Option U32
  deriving DecidableEq, Repr

/-- `Message` (R194). -/
inductive Message where
  | control (r : ControlRec)
  | status (r : StatusRec)
  | config (r : ConfigRec)
  | parsed (id : ID) (v : JsonValue)
  | unparsed (id : ID) (s : Text)
  deriving DecidableEq, Repr

/-- `Packet` (R145): header, raw payload bytes, optional parsed message. -/
structure Packet where
  header : Header
  data   : Bytes
  parsed : Option Message
  deriving DecidableEq, Repr

/-- The 16 commands of R89, one constructor per row of spec/opcode_table.json. -/
inductive Instr where
  | flagsEnc (r : PacketType)
  | flagsDec (b : Byte)
  | pixcfgEnc (r : PixelConfig)
  | pixcfgDec (b : Byte)
  | idEnc (r : ID)
  | idDec (b : Byte)
  | hdrEnc (r : Header)
  | hdrDec (data : Bytes)
  | pktDec (data : Bytes)
  | sliceSend (hdr : Header) (data : Bytes)
  | msgEnc (msg : Message)
  | msgDec (id : ID) (data : Bytes)
  | write (data : Bytes)
  | writeOffset (data : Bytes) (offset : U32)
  | writeMessage (msg : Message)
  | getIncoming
  deriving DecidableEq, Repr

/-- The typed operand lines of the command port (R88): one line for each operand type a format of R88
names. The opcode alone selects which lines a command reads (R94); the others are not looked at. -/
structure Operands where
  byte        : Byte
  packetType  : PacketType
  pixelConfig : PixelConfig
  id          : ID
  header      : Header
  data        : Bytes
  offset      : U32
  msg         : Message
  deriving DecidableEq, Repr

/-- One command as the host presents it: an 8-bit opcode and its operands (R35, R88). -/
structure Command where
  op       : Byte
  operands : Operands
  deriving DecidableEq, Repr

/-- The packet type whose version and flags are all 0. -/
def PacketType.zero : PacketType :=
  { version := 0, timecode := false, storage := false, reply := false, query := false, push := false }

/-- The pixel config of the codes 0. -/
def PixelConfig.zero : PixelConfig :=
  { dataType := .undefined, dataSize := .undefined, customerDefined := false }

/-- The header of zero fields. -/
def Header.zero : Header :=
  { packetType := .zero, sequenceNumber := 0, pixelConfig := .zero, id := .reserved, offset := 0,
    length := 0, timecode := none }

/-- Every operand line at its zero value: numbers 0, byte strings empty, the ID of byte 0, the empty text
under that ID for a message. DESIGN CHOICE (log 1). -/
def Operands.zero : Operands :=
  { byte := 0, packetType := .zero, pixelConfig := .zero, id := .reserved, header := .zero, data := [],
    offset := 0, msg := .unparsed .reserved [] }

end Sys2Proof
end

