-- ==== Sys2Proof/Machine/Params.lean ====
section
/-! DEFINITION. The numeric parameters of this hardware (spec/00_scope.md rules R6 to R10). They stand in
their own file, beside the machine, so that a model of another revision changes one constant. -/

namespace Sys2Proof.Machine

/-- `MAX_CHUNK` (R6): the largest payload of one datagram, in bytes. -/
abbrev maxChunk : Nat := 1440

/-- `HDR_LEN_BASE` (R6). -/
abbrev hdrLenBase : Nat := 10

/-- `HDR_LEN_TC` (R6). -/
abbrev hdrLenTc : Nat := 14

/-- `SEQ_MAX` (R6). -/
abbrev seqMax : BitVec 4 := 15

/-- `SEQ_MIN` and `SEQ_RESET` (R6). -/
abbrev seqMin : BitVec 4 := 1

/-- `SENDBUF_SIZE` (R7, D29). -/
abbrev sendbufSize : Nat := 1500

/-- `DDP_PORT` (R6): the conventional destination port. -/
abbrev ddpPort : U16 := 4048

/-- `ID_RESERVED` (R6). -/
abbrev idReserved : Byte := 0

/-- `ID_DEFAULT` (R6). -/
abbrev idDefault : Byte := 1

/-- `CONTROL_ID_BYTE` (R8, D9; log 10). -/
abbrev controlIdByte : Byte := 246

/-- `ID_CONFIG` (R6). -/
abbrev idConfig : Byte := 250

/-- `ID_STATUS` (R6). -/
abbrev idStatus : Byte := 251

/-- `ID_DMX` (R6). -/
abbrev idDmx : Byte := 254

/-- `ID_BROADCAST` (R6). -/
abbrev idBroadcast : Byte := 255

/-- Membership in `CUSTOM_RANGE` (R79): every byte that is not the byte of a canonical ID. -/
def inCustomRange (v : Byte) : Bool :=
  v != idReserved && v != idDefault && v != controlIdByte && v != idConfig && v != idStatus
    && v != idDmx && v != idBroadcast

/-- The default pixel config: RGB at 24 bits, not customer-defined (R24, R74). -/
def defaultPixcfg : PixelConfig := { dataType := .rgb, dataSize := .bits24, customerDefined := false }

/-- `VERSION0_DECODE` (R9, D7; log 9). -/
def version0Decode : Version0Decode := .one

/-- `OFFSET_OVERFLOW` (R10, D17; log 11). -/
def offsetOverflow : OffsetOverflow := .wrap

end Sys2Proof.Machine
end

