-- ==== Sys2Proof/WellFormed.lean ====
section
/-! DEFINITION. Well-formed operands, in the sense of spec/60_exceptions.md rule R248 and
41_header_codec.md rule R144: values that the wire encodings carry without clamping or dropping anything.
Every command RUNS on ill-formed operands too (the encoders clamp or ignore, R80, R140); these checks only
say for which values decode gives back what encode was given. -/

namespace Sys2Proof

/-- A packet type whose version is one of the encodable numbers 1, 2, 3 (R72). -/
def PacketType.wellFormed (r : PacketType) : Bool := r.version != 0

/-- An ID that is canonical, or `Custom(v)` with `v` in `CUSTOM_RANGE` (R79, R119). -/
def ID.wellFormed : ID → Bool
  | .custom v => Machine.inCustomRange v
  | .reserved => true
  | .default => true
  | .control => true
  | .config => true
  | .status => true
  | .dmx => true
  | .broadcast => true

/-- A *consistent* header (R82): a timecode value exactly when the timecode flag is set. -/
def Header.consistent (h : Header) : Bool := h.timecode.isSome == h.packetType.timecode

/-- A header that the round trip of R144 is stated for. -/
def Header.wellFormed (h : Header) : Bool :=
  h.packetType.wellFormed && h.id.wellFormed && h.consistent

/-- The ID a message is tagged with is well-formed; typed messages have a canonical ID (R195). -/
def Message.wellFormed : Message → Bool
  | .control _ => true
  | .status _ => true
  | .config _ => true
  | .parsed i _ => i.wellFormed
  | .unparsed i _ => i.wellFormed

/-- The operands of a command are well-formed. -/
def Instr.wellFormed : Instr → Bool
  | .flagsEnc r => r.wellFormed
  | .flagsDec _ => true
  | .pixcfgEnc _ => true
  | .pixcfgDec _ => true
  | .idEnc r => r.wellFormed
  | .idDec _ => true
  | .hdrEnc r => r.wellFormed
  | .hdrDec _ => true
  | .pktDec _ => true
  | .sliceSend hdr _ => hdr.wellFormed
  | .msgEnc msg => msg.wellFormed
  | .msgDec id _ => id.wellFormed
  | .write _ => true
  | .writeOffset _ _ => true
  | .writeMessage msg => msg.wellFormed
  | .getIncoming => true

end Sys2Proof
end

