-- ==== Sys2Proof/Decode.lean ====
section
/-! DEFINITION. The command decoder and encoder (spec/30_encoding.md rules R88 to R90, R94). The decoder is
total over all 256 opcodes and all operand lines; 240 opcodes are rejected by name (R90). -/

namespace Sys2Proof

/-- The decoder's rejection: `ILLEGAL_COMMAND` with the opcode it found (R90, R246). -/
structure IllegalCommand where
  opcode : Byte
  deriving DecidableEq, Repr

/-- Selects the command by comparing all 8 bits of the opcode (R89); the opcode alone selects which operand
lines are read (R94). -/
def decode (c : Command) : Except IllegalCommand Instr :=
  match c.op.toNat with
  | 0x10 => .ok (.flagsEnc c.operands.packetType)
  | 0x11 => .ok (.flagsDec c.operands.byte)
  | 0x12 => .ok (.pixcfgEnc c.operands.pixelConfig)
  | 0x13 => .ok (.pixcfgDec c.operands.byte)
  | 0x14 => .ok (.idEnc c.operands.id)
  | 0x15 => .ok (.idDec c.operands.byte)
  | 0x20 => .ok (.hdrEnc c.operands.header)
  | 0x21 => .ok (.hdrDec c.operands.data)
  | 0x22 => .ok (.pktDec c.operands.data)
  | 0x30 => .ok (.sliceSend c.operands.header c.operands.data)
  | 0x40 => .ok (.msgEnc c.operands.msg)
  | 0x41 => .ok (.msgDec c.operands.id c.operands.data)
  | 0x50 => .ok (.write c.operands.data)
  | 0x51 => .ok (.writeOffset c.operands.data c.operands.offset)
  | 0x52 => .ok (.writeMessage c.operands.msg)
  | 0x53 => .ok .getIncoming
  | _ => .error ⟨c.op⟩

/-- The opcode of each command, from the table of R89. -/
def opcode : Instr → Byte
  | .flagsEnc _ => 0x10
  | .flagsDec _ => 0x11
  | .pixcfgEnc _ => 0x12
  | .pixcfgDec _ => 0x13
  | .idEnc _ => 0x14
  | .idDec _ => 0x15
  | .hdrEnc _ => 0x20
  | .hdrDec _ => 0x21
  | .pktDec _ => 0x22
  | .sliceSend _ _ => 0x30
  | .msgEnc _ => 0x40
  | .msgDec _ _ => 0x41
  | .write _ => 0x50
  | .writeOffset _ _ => 0x51
  | .writeMessage _ => 0x52
  | .getIncoming => 0x53

/-- The operand lines a command is presented with; the lines its format does not name are zero (R88). -/
def operandsOf : Instr → Operands
  | .flagsEnc r => { Operands.zero with packetType := r }
  | .flagsDec b => { Operands.zero with byte := b }
  | .pixcfgEnc r => { Operands.zero with pixelConfig := r }
  | .pixcfgDec b => { Operands.zero with byte := b }
  | .idEnc r => { Operands.zero with id := r }
  | .idDec b => { Operands.zero with byte := b }
  | .hdrEnc r => { Operands.zero with header := r }
  | .hdrDec data => { Operands.zero with data := data }
  | .pktDec data => { Operands.zero with data := data }
  | .sliceSend hdr data => { Operands.zero with header := hdr, data := data }
  | .msgEnc msg => { Operands.zero with msg := msg }
  | .msgDec id data => { Operands.zero with id := id, data := data }
  | .write data => { Operands.zero with data := data }
  | .writeOffset data offset => { Operands.zero with data := data, offset := offset }
  | .writeMessage msg => { Operands.zero with msg := msg }
  | .getIncoming => Operands.zero

/-- The command the host presents for an instruction. -/
def encode (i : Instr) : Command := { op := opcode i, operands := operandsOf i }

/-- The command whose table bits are `w`: the opcode is the table's one byte, every operand line is zero. -/
def tableCommand (w : Nat) : Command := { op := BitVec.ofNat 8 w, operands := Operands.zero }

/-- What the decoder reads from an instruction whose bits are `w`, numbered as spec/opcode_table.json numbers
them; every row of that table has the 8 bits of the opcode. -/
def decodeTableWord (nbits w : Nat) : Option Instr :=
  if nbits = 8 then (decode (tableCommand w)).toOption else none

end Sys2Proof
end

