-- ==== Sys2Proof/Machine/Flags.lean ====
section
/-! DEFINITION. The flags byte: PacketTypeFlags of spec/40_field_codecs.md (rules R110, R111) over the
layout of spec/30_encoding.md rules R71 to R73. The block has no condition codes of its own (R30, R33). -/

namespace Sys2Proof.Machine

/-- A one-bit field at its place: the given bit if the flag is set. -/
def flagBit (f : Bool) (bit : Byte) : Byte := if f then bit else 0

/-- `FLAGS_ENC` (R110): bit 5 is always 0 (R73). -/
def flagsEnc (r : PacketType) : Byte :=
  (r.version.zeroExtend 8 <<< 6) ||| flagBit r.timecode 0x10 ||| flagBit r.storage 0x08
    ||| flagBit r.reply 0x04 ||| flagBit r.query 0x02 ||| flagBit r.push 0x01

/-- The version a decoder reports for the field bits `v` under a `VERSION0_DECODE` policy (R9, R111). -/
def decodeVersion (policy : Version0Decode) (v : BitVec 2) : BitVec 2 :=
  if v = 0 then (match policy with | .one => 1 | .zero => 0) else v

/-- `FLAGS_DEC` (R111): total, bit 5 ignored (R73). -/
def flagsDec (b : Byte) : PacketType :=
  { version  := decodeVersion version0Decode (b.extractLsb' 6 2)
    timecode := b.getLsbD 4
    storage  := b.getLsbD 3
    reply    := b.getLsbD 2
    query    := b.getLsbD 1
    push     := b.getLsbD 0 }

/-- `hl(pt)` (R84): the header length the timecode flag alone decides. -/
def headerLength (pt : PacketType) : Nat := if pt.timecode then hdrLenTc else hdrLenBase

end Sys2Proof.Machine
end

