-- ==== Sys2Proof/Machine/Operands.lean ====
section
/-! DEFINITION. The operand forms and byte fields: big-endian words (spec/00_scope.md rule R15), reading the
operand `DATA` (R16, R31), the pixel config and ID bytes (spec/40_field_codecs.md rules R112 to R115), the
chunk and offset arithmetic of the fragmenter (spec/42_fragmenter.md rules R171, R178). -/

namespace Sys2Proof.Machine

/-- `be16` (R15): most significant byte first (R50). -/
def be16 (v : U16) : Bytes := [v.extractLsb' 8 8, v.extractLsb' 0 8]

/-- `be32` (R15): most significant byte first (R50). -/
def be32 (v : U32) : Bytes :=
  [v.extractLsb' 24 8, v.extractLsb' 16 8, v.extractLsb' 8 8, v.extractLsb' 0 8]

/-- `s[i]` of R15. Every use is below the length of the string (R31, R143); beyond it the value is not used. -/
def byteAt (s : Bytes) (i : Nat) : Byte := s.getD i 0

/-- `rd_be16` (R15). -/
def rdBe16 (s : Bytes) (i : Nat) : U16 :=
  ((byteAt s i).zeroExtend 16 <<< 8) ||| (byteAt s (i + 1)).zeroExtend 16

/-- `rd_be32` (R15). -/
def rdBe32 (s : Bytes) (i : Nat) : U32 :=
  ((byteAt s i).zeroExtend 32 <<< 24) ||| ((byteAt s (i + 1)).zeroExtend 32 <<< 16)
    ||| ((byteAt s (i + 2)).zeroExtend 32 <<< 8) ||| (byteAt s (i + 3)).zeroExtend 32

/-- `MemRead(addr, n)` (R16): the bytes `DATA[addr : addr+n]`. -/
def memRead (data : Bytes) (addr n : Nat) : Bytes := (data.drop addr).take n

/-- The code of a data type (R76). -/
def dataTypeCode : DataType → Byte
  | .undefined => 0
  | .rgb => 1
  | .hsl => 2
  | .rgbw => 3
  | .grayscale => 4

/-- The data type of a code (R76): the codes 5, 6, 7 also decode to `Undefined`. -/
def dataTypeOf (c : BitVec 3) : DataType :=
  if c = 1 then .rgb else if c = 2 then .hsl else if c = 3 then .rgbw else if c = 4 then .grayscale
  else .undefined

/-- The code of a data size (R77). -/
def dataSizeCode : DataSize → Byte
  | .undefined => 0
  | .bits1 => 1
  | .bits4 => 2
  | .bits8 => 3
  | .bits16 => 4
  | .bits24 => 5
  | .bits32 => 6

/-- The data size of a code (R77): the code 7 decodes to `Undefined`. -/
def dataSizeOf (c : BitVec 3) : DataSize :=
  if c = 1 then .bits1 else if c = 2 then .bits4 else if c = 3 then .bits8 else if c = 4 then .bits16
  else if c = 5 then .bits24 else if c = 6 then .bits32 else .undefined

/-- `PIXCFG_ENC` (R112): bit 6 is always 0. -/
def pixcfgEnc (r : PixelConfig) : Byte :=
  flagBit r.customerDefined 0x80 ||| (dataTypeCode r.dataType <<< 3) ||| dataSizeCode r.dataSize

/-- `PIXCFG_DEC` (R113): total, bit 6 ignored. -/
def pixcfgDec (b : Byte) : PixelConfig :=
  { dataType        := dataTypeOf (b.extractLsb' 3 3)
    dataSize        := dataSizeOf (b.extractLsb' 0 3)
    customerDefined := b.getLsbD 7 }

/-- `ID_ENC` (R114, R80): a `Custom` value outside `CUSTOM_RANGE` is clamped to the `Default` byte. -/
def idEnc : ID → Byte
  | .reserved => idReserved
  | .default => idDefault
  | .control => controlIdByte
  | .config => idConfig
  | .status => idStatus
  | .dmx => idDmx
  | .broadcast => idBroadcast
  | .custom v => if inCustomRange v then v else idDefault

/-- `ID_DEC` (R115, R79): total over all 256 bytes. -/
def idDec (b : Byte) : ID :=
  if b = idReserved then .reserved
  else if b = idDefault then .default
  else if b = controlIdByte then .control
  else if b = idConfig then .config
  else if b = idStatus then .status
  else if b = idDmx then .dmx
  else if b = idBroadcast then .broadcast
  else .custom b

/-- The sequence advance (R116). -/
def seqAdvance (s : BitVec 4) : BitVec 4 := if seqMax ≤ s then seqMin else s + 1

/-- `K = ceil(N / MAX_CHUNK)` (R171). -/
def chunkCount (n : Nat) : Nat := (n + (maxChunk - 1)) / maxChunk

/-- Chunk `k` of the payload (R171): from `k * MAX_CHUNK`, at most `MAX_CHUNK` bytes. -/
def chunkOf (data : Bytes) (k : Nat) : Bytes :=
  memRead data (k * maxChunk) (min maxChunk (data.length - k * maxChunk))

/-- `OFFSET(base, k)` (R178) under an `OFFSET_OVERFLOW` policy; `none` is the fault of the policy `FAULT`. -/
def chunkOffset (policy : OffsetOverflow) (base : U32) (k : Nat) : Option U32 :=
  let sum := base.toNat + k * maxChunk
  if sum ≤ 2 ^ 32 - 1 then some (BitVec.ofNat 32 sum)
  else match policy with
    | .wrap => some (BitVec.ofNat 32 sum)
    | .fault => none

end Sys2Proof.Machine
end

