-- ==== Sys2Proof/Machine/State.lean ====
section
/-! DEFINITION. The state of one framer (spec/10_state.md rule R22), with the transient state of a write in
progress (R32), the model-only history `TXLOG` (R29), and the model's own record of what the environment
does next (log 2, log 3). Plain data throughout. -/

namespace Sys2Proof.Machine

/-- The status codes of R240. -/
inductive Status where
  | ok
  | transportError
  | serializationError
  | emptyQueue
  | illegalCommand
  | addressResolutionError
  deriving DecidableEq, Repr

/-- The value part of `RESULT`, by command (R30, R89, and R240's column "info recorded"). -/
inductive Value where
  | nothing
  | byte (b : Byte)
  | packetType (r : PacketType)
  | pixelConfig (r : PixelConfig)
  | id (r : ID)
  | bytes (bs : Bytes)
  | header (h : Header) (hl : Nat) (short : Bool)
  | packetShort (p : Packet) (short : Bool)
  | packet (p : Packet)
  | count (n : Nat)
  | encoded (id : ID) (body : Bytes)
  | message (m : Option Message)
  | transportInfo (e : TransportError)
  | serializationInfo (e : SerializationError)
  | opcodeInfo (op : Byte)
  deriving DecidableEq, Repr

/-- `RESULT` (R30): a status code and a value. -/
structure Result where
  status : Status
  value  : Value
  deriving DecidableEq, Repr

/-- One entry of `TXLOG` (R29, R36). -/
structure TxEntry where
  dest    : Address
  bytes   : Bytes
  outcome : TxOutcome
  deriving DecidableEq, Repr

/-- The transient state of a `SLICE_SEND` between two of its fragment steps (R32): the template `T`, the
operand `DATA`, the index `k` of the next chunk, the number of chunks `K`, the running total. -/
structure Transfer where
  template : Header
  data     : Bytes
  k        : Nat
  chunks   : Nat
  total    : Nat
  deriving DecidableEq, Repr

/-- What the environment does at a step boundary (R34, R37; log 2). `command c`: the host presents `c` once
the framer is idle (R35). `datagram b`: the dispatcher delivers the bytes `b`. `quiet`: nobody outside the
framer acts in this step. -/
inductive Input where
  | command (c : Command)
  | datagram (b : Bytes)
  | quiet
  deriving DecidableEq, Repr

/-- The bytes of `SENDBUF`, index 0 first (R27). Every index below `SENDBUF_SIZE` holds a byte; there is none
beyond (log 7). -/
abbrev Memory := Bytes

structure State where
  /-- `CFG_DEST` (R23). -/
  cfgDest   : Address
  /-- `CFG_PIXCFG` (R24). -/
  cfgPixcfg : PixelConfig
  /-- `CFG_ID` (R25). -/
  cfgId     : ID
  /-- `SEQ` (R26). -/
  seq       : BitVec 4
  /-- `SENDBUF` (R27). -/
  sendbuf   : Memory
  /-- `INQ` (R28), head first. -/
  inq       : List Packet
  /-- `RESULT` (R30), absent before the first command has completed. -/
  result    : Option Result
  /-- `TXLOG` (R29), oldest first: the model's history, read by no operation of the block. -/
  txlog     : List TxEntry
  /-- The write in progress, if any (R32, R35). -/
  inflight  : Option Transfer
  /-- The model's own: what the environment does at the next step boundaries, first one first (log 2). -/
  inputs    : List Input
  /-- The model's own: what the transport answers to the next `Transmit`s, first one first; where the list
  is empty the answer is the free draw of Config (log 3). -/
  txScript  : List TxOutcome
  deriving DecidableEq, Repr

/-- Why the machine may stop with a fault. -/
inductive Fault where
  /-- Raised by the fragmenter when the bytes it writes or hands over reach beyond `SENDBUF_SIZE` (R57). Safe:
  there is no such byte. No command raises it, since every datagram fits (R7, R173). -/
  | sendbufRange
  /-- Raised by the fragmenter when an offset exceeds `2^32 - 1` under `OFFSET_OVERFLOW = FAULT` (R10, R178).
  Safe. This hardware takes `WRAP`, under which it is never raised (log 11). -/
  | offsetOverflow
  deriving DecidableEq, Repr

/-- Why the machine may refuse an instruction. -/
inductive Refusal where
  /-- Raised by `exec` for an instruction without a meaning. Safe. -/
  | notModelled (mnemonic : String)
  /-- Raised by every command that is presented while a write is in progress: the spec does not admit it
  (R35, R274, I20; log 14). Safe. `step` never raises it. -/
  | commandInProgress
  deriving DecidableEq, Repr

/-- What a command or a framer step answers. -/
abbrev Outcome := Host.Outcome State Fault Refusal

/-- The `n` bytes `content` gives the indices from `a` on. -/
def contentFrom (content : Nat → Byte) (a : Nat) : Nat → Bytes
  | 0 => []
  | n + 1 => content a :: contentFrom content (a + 1) n

/-- The state right after a successful construction (R270, R271). `content` is the draw of `SENDBUF`'s bytes:
every string of `SENDBUF_SIZE` bytes is the content some draw gives (I24; log 7). -/
def State.fresh (dest : Address) (content : Nat → Byte) (pixcfg : PixelConfig) (id : ID) : State :=
  { cfgDest := dest, cfgPixcfg := pixcfg, cfgId := id, seq := seqMin,
    sendbuf := contentFrom content 0 sendbufSize, inq := [], result := none, txlog := [],
    inflight := none, inputs := [], txScript := [] }

/-- The destination of `State.reset`: host 0, the conventional port. DESIGN CHOICE (log 8). -/
def resetDest : Address := { host := 0, port := ddpPort }

/-- The machine right after reset: construction with the default arguments (R270, R271) and the free content
of `SENDBUF` (log 7). -/
def State.reset : State := State.fresh resetDest Config.sendbufContent defaultPixcfg .default

def State.setSeq (s : State) (v : BitVec 4) : State := { s with seq := v }
def State.setSendbuf (s : State) (v : Memory) : State := { s with sendbuf := v }
def State.setInq (s : State) (v : List Packet) : State := { s with inq := v }
def State.setResult (s : State) (v : Option Result) : State := { s with result := v }
def State.setTxlog (s : State) (v : List TxEntry) : State := { s with txlog := v }
def State.setInflight (s : State) (v : Option Transfer) : State := { s with inflight := v }
def State.setInputs (s : State) (v : List Input) : State := { s with inputs := v }
def State.setTxScript (s : State) (v : List TxOutcome) : State := { s with txScript := v }

end Sys2Proof.Machine
end

