-- ==== Sys2Proof/Machine/Ops.lean ====
section
/-! DEFINITION. The shared operations: `SENDBUF` and `MemWrite` (spec/00_scope.md rule R16, spec/10_state.md
rule R27), ending a command with a result or an error (spec/60_exceptions.md rules R240, R250), the
single-writer rule (spec/10_state.md rule R35) and `Transmit` (rule R36). -/

namespace Sys2Proof.Machine

/-- `SENDBUF` has its `SENDBUF_SIZE` bytes (R27). -/
def Memory.wf (m : Memory) : Bool := decide (m.length = sendbufSize)

/-- The byte of `SENDBUF` at one index; `none` beyond the buffer. -/
def sendbufByte (m : Memory) (a : Nat) : Option Byte := m[a]?

/-- `SENDBUF[a : a+n]` (R36); `none` when it reaches beyond the buffer (R57). -/
def sendbufRange (m : Memory) (a n : Nat) : Option Bytes :=
  if a + n ≤ sendbufSize then some ((m.drop a).take n) else none

/-- `MemWrite(addr, len(v), v)` (R16): writes `SENDBUF[addr : addr+len(v)]` and leaves every other byte. It
answers `none` when the bytes reach beyond the buffer (R57). -/
def memWrite (addr : Nat) (v : Bytes) (m : Memory) : Option Memory :=
  if addr + v.length ≤ sendbufSize then some (m.take addr ++ v ++ m.drop (addr + v.length)) else none

/-- The code of a status (R240). -/
def statusCode : Status → Byte
  | .ok => 0x00
  | .transportError => 0x01
  | .serializationError => 0x02
  | .emptyQueue => 0x03
  | .illegalCommand => 0x04
  | .addressResolutionError => 0x05

/-- Ends the command: writes `RESULT`, and no write is in progress any more (R30, R35). -/
def finish (st : Status) (v : Value) (s : State) : State :=
  (s.setInflight none).setResult (some { status := st, value := v })

/-- `return v` (R16): ends the command with status `OK`. -/
def retOk (v : Value) (s : State) : Outcome := .next (finish .ok v s)

/-- `raise <Error>(info)` (R16, R250): the block's whole error entry. It saves nothing, changes no mode and
transfers control nowhere; the state already written stays written. -/
def raise (st : Status) (info : Value) (s : State) : Outcome := .next (finish st info s)

/-- A command is taken only while no other is in progress (R35, R274; log 14). -/
def whenIdle (s : State) (k : Outcome) : Outcome :=
  match s.inflight with
  | none => k
  | some _ => .refused .commandInProgress

/-- An opcode that is not assigned (R90, R246). -/
def illegalCommand (op : Byte) (s : State) : Outcome := raise .illegalCommand (.opcodeInfo op) s

/-- What the transport answers next (R36, R40; log 3). -/
def nextOutcome (s : State) : TxOutcome :=
  match s.txScript with
  | o :: _ => o
  | [] => Config.transportDraw s.txlog.length

/-- The state after a `Transmit` of the bytes `bs` with the given outcome (R36). -/
def logTransmit (bs : Bytes) (o : TxOutcome) (s : State) : State :=
  (s.setTxlog (s.txlog ++ [{ dest := s.cfgDest, bytes := bs, outcome := o }])).setTxScript s.txScript.tail

/-- `Transmit(n)` (R36): hands `SENDBUF[0:n]` to the transport as one datagram, records it in `TXLOG`, and
answers the outcome with the state after it. -/
def transmit (n : Nat) (s : State) : Except Fault (TxOutcome × State) :=
  match sendbufRange s.sendbuf 0 n with
  | none => .error .sendbufRange
  | some bs => .ok (nextOutcome s, logTransmit bs (nextOutcome s) s)

end Sys2Proof.Machine
end

