-- ==== Sys2Proof/Machine/Utf8.lean ====
section
/-! DEFINITION. UTF-8 (spec/43_message_codec.md rule R196): the well-formed units of RFC 3629, the decoder
`UTF8_DECODE`, and the UTF-8 bytes of a text (rule R197). PRESUMED, as the spec itself takes the table from
general knowledge (G2; log 12). -/

namespace Sys2Proof.Machine

/-- The byte lies in `lo..hi`. -/
def inRange (lo hi : Nat) (b : Byte) : Bool := decide (lo ≤ b.toNat) && decide (b.toNat ≤ hi)

/-- `80..BF`. -/
def utf8Cont (b : Byte) : Bool := inRange 0x80 0xBF b

/-- The row of one byte. -/
def utf8Unit1 (b0 : Byte) : Bool := inRange 0x00 0x7F b0

/-- The row of two bytes. -/
def utf8Unit2 (b0 b1 : Byte) : Bool := inRange 0xC2 0xDF b0 && utf8Cont b1

/-- The rows of three bytes. -/
def utf8Unit3 (b0 b1 b2 : Byte) : Bool :=
  ((inRange 0xE0 0xE0 b0 && inRange 0xA0 0xBF b1)
    || (inRange 0xE1 0xEC b0 && utf8Cont b1)
    || (inRange 0xED 0xED b0 && inRange 0x80 0x9F b1)
    || (inRange 0xEE 0xEF b0 && utf8Cont b1))
  && utf8Cont b2

/-- The rows of four bytes. -/
def utf8Unit4 (b0 b1 b2 b3 : Byte) : Bool :=
  ((inRange 0xF0 0xF0 b0 && inRange 0x90 0xBF b1)
    || (inRange 0xF1 0xF3 b0 && utf8Cont b1)
    || (inRange 0xF4 0xF4 b0 && inRange 0x80 0x8F b1))
  && utf8Cont b2 && utf8Cont b3

/-- The scalar value of a unit of one byte. -/
def utf8Char1 (b0 : Byte) : Char := Char.ofNat b0.toNat

/-- The scalar value of a unit of two bytes. -/
def utf8Char2 (b0 b1 : Byte) : Char := Char.ofNat ((b0.toNat - 0xC0) * 64 + (b1.toNat - 0x80))

/-- The scalar value of a unit of three bytes. -/
def utf8Char3 (b0 b1 b2 : Byte) : Char :=
  Char.ofNat ((b0.toNat - 0xE0) * 4096 + (b1.toNat - 0x80) * 64 + (b2.toNat - 0x80))

/-- The scalar value of a unit of four bytes. -/
def utf8Char4 (b0 b1 b2 b3 : Byte) : Char :=
  Char.ofNat ((b0.toNat - 0xF0) * 262144 + (b1.toNat - 0x80) * 4096 + (b2.toNat - 0x80) * 64
    + (b3.toNat - 0x80))

/-- `UTF8_DECODE` (R196): the text when the bytes are made only of well-formed units, `none` otherwise; no
replacement of ill-formed bytes. -/
def utf8Decode : Bytes → Option Text
  | [] => some []
  | b0 :: r0 =>
    if utf8Unit1 b0 then (utf8Decode r0).map (utf8Char1 b0 :: ·)
    else match r0 with
      | [] => none
      | b1 :: r1 =>
        if utf8Unit2 b0 b1 then (utf8Decode r1).map (utf8Char2 b0 b1 :: ·)
        else match r1 with
          | [] => none
          | b2 :: r2 =>
            if utf8Unit3 b0 b1 b2 then (utf8Decode r2).map (utf8Char3 b0 b1 b2 :: ·)
            else match r2 with
              | [] => none
              | b3 :: r3 =>
                if utf8Unit4 b0 b1 b2 b3 then (utf8Decode r3).map (utf8Char4 b0 b1 b2 b3 :: ·)
                else none

/-- The UTF-8 unit of one scalar value. -/
def utf8EncodeChar (c : Char) : Bytes :=
  let n := c.toNat
  if n < 0x80 then [BitVec.ofNat 8 n]
  else if n < 0x800 then [BitVec.ofNat 8 (0xC0 + n / 64), BitVec.ofNat 8 (0x80 + n % 64)]
  else if n < 0x10000 then
    [BitVec.ofNat 8 (0xE0 + n / 4096), BitVec.ofNat 8 (0x80 + n / 64 % 64), BitVec.ofNat 8 (0x80 + n % 64)]
  else
    [BitVec.ofNat 8 (0xF0 + n / 262144), BitVec.ofNat 8 (0x80 + n / 4096 % 64),
      BitVec.ofNat 8 (0x80 + n / 64 % 64), BitVec.ofNat 8 (0x80 + n % 64)]

/-- The UTF-8 bytes of a text (R197). -/
def utf8Encode : Text → Bytes
  | [] => []
  | c :: t => utf8EncodeChar c ++ utf8Encode t

end Sys2Proof.Machine
end

