-- ==== Sys2Proof/Machine/Message.lean ====
section
/-! DEFINITION. The message codec (spec/43_message_codec.md): the JSON parameters, the message encoder, the
four-stage decode chain, and the commands MSG_ENC and MSG_DEC. -/

namespace Sys2Proof.Machine

/-- `JSON_PARSE` (R190): the free parameter, with the two facts R190 states of it: bytes that are not
well-formed UTF-8 and the empty string are no JSON text. PRESUMED, as in the spec (G1; log 4). -/
def jsonParse (data : Bytes) : Option JsonValue :=
  match data, utf8Decode data with
  | _ :: _, some _ => Config.jsonParse data
  | _, _ => none

/-- `msg_id` (R195). -/
def msgId : Message → ID
  | .control _ => .control
  | .config _ => .config
  | .status _ => .status
  | .parsed i _ => i
  | .unparsed i _ => i

/-- The body of an outbound message (R197); an `Unparsed` message is sent as its raw text bytes (D20). -/
def msgBody : Message → Except SerializationError Bytes
  | .control r => Config.serControl r
  | .config r => Config.serConfig r
  | .status r => Config.serStatus r
  | .parsed _ v => Config.jsonSerialize v
  | .unparsed _ t => .ok (utf8Encode t)

/-- Stage (a) (R199): the schema of the ID, and of no other ID. -/
def typedMessage (id : ID) (v : JsonValue) : Option Message :=
  match id with
  | .control => (Config.schemaControl v).map .control
  | .config => (Config.schemaConfig v).map .config
  | .status => (Config.schemaStatus v).map .status
  | .reserved => none
  | .default => none
  | .custom _ => none
  | .dmx => none
  | .broadcast => none

/-- Stages (c) and (d) (R201, R202): the text tagged with the ID, or nothing. -/
def textMessage (id : ID) (data : Bytes) : Option Message := (utf8Decode data).map (.unparsed id ·)

/-- `MSG_DEC id, data` (R198): the stages in strict order, the first that succeeds. -/
def msgDec (id : ID) (data : Bytes) : Option Message :=
  match jsonParse data with
  | some v =>
    match typedMessage id v with
    | some m => some m
    | none => some (.parsed id v)
  | none => textMessage id data

/-- `MSG_ENC msg` (R197). -/
def execMsgEnc (msg : Message) (s : State) : Outcome :=
  whenIdle s <|
    match msgBody msg with
    | .error e => raise .serializationError (.serializationInfo e) s
    | .ok body => retOk (.encoded (msgId msg) body) s

/-- `MSG_DEC id, data` (R198). -/
def execMsgDec (id : ID) (data : Bytes) (s : State) : Outcome :=
  whenIdle s (retOk (.message (msgDec id data)) s)

end Sys2Proof.Machine
end

