-- ==== Sys2Proof/Machine/HeaderCodec.lean ====
section
/-! DEFINITION. The header codec and the packet decoder (spec/41_header_codec.md rules R140 to R149) with
the commands HDR_ENC, HDR_DEC and PKT_DEC. -/

namespace Sys2Proof.Machine

/-- The timecode bytes of a header (R140, D15): none with the flag clear; with the flag set and no value, 0. -/
def timecodeBytes (h : Header) : Bytes :=
  if h.packetType.timecode then be32 (h.timecode.getD 0) else []

/-- `HDR_ENC r` (R140), over the layout of R83. -/
def hdrEnc (h : Header) : Bytes :=
  [flagsEnc h.packetType, h.sequenceNumber, pixcfgEnc h.pixelConfig, idEnc h.id]
    ++ be32 h.offset ++ be16 h.length ++ timecodeBytes h

/-- `DEFAULT_HEADER` (R142). -/
def defaultHeader : Header :=
  { packetType := { PacketType.zero with version := 1 }
    sequenceNumber := 0
    pixelConfig := defaultPixcfg
    id := .default
    offset := 0
    length := 0
    timecode := none }

/-- A short input (R143). -/
def isShort (data : Bytes) : Bool :=
  decide (data.length < hdrLenBase)
    || (decide (data.length < hdrLenTc) && (flagsDec (byteAt data 0)).timecode)

/-- The fields of a header that is not short (R141). -/
def headerFields (data : Bytes) : Header :=
  let pt := flagsDec (byteAt data 0)
  { packetType     := pt
    sequenceNumber := byteAt data 1
    pixelConfig    := pixcfgDec (byteAt data 2)
    id             := idDec (byteAt data 3)
    offset         := rdBe32 data 4
    length         := rdBe16 data 8
    timecode       := if pt.timecode then some (rdBe32 data 10) else none }

/-- `HDR_DEC data` (R141): the header, its length, and whether the input was short. -/
def hdrDec (data : Bytes) : Header × Nat × Bool :=
  if isShort data then (defaultHeader, 0, true)
  else (headerFields data, headerLength (flagsDec (byteAt data 0)), false)

/-- The empty packet of a short input (R146). -/
def emptyPacket : Packet := { header := defaultHeader, data := [], parsed := none }

/-- `PKT_DEC data` (R146): the payload is every byte after the header (R147); it is parsed exactly when the
reply flag is set (R148). -/
def pktDec (data : Bytes) : Packet × Bool :=
  match hdrDec data with
  | (_, _, true) => (emptyPacket, true)
  | (h, hl, false) =>
    ({ header := h
       data := data.drop hl
       parsed := if h.packetType.reply then msgDec h.id (data.drop hl) else none }, false)

/-- `HDR_ENC r` (R140). -/
def execHdrEnc (r : Header) (s : State) : Outcome := whenIdle s (retOk (.bytes (hdrEnc r)) s)

/-- `HDR_DEC data` (R141). -/
def execHdrDec (data : Bytes) (s : State) : Outcome :=
  whenIdle s (retOk (.header (hdrDec data).1 (hdrDec data).2.1 (hdrDec data).2.2) s)

/-- `PKT_DEC data` (R146). -/
def execPktDec (data : Bytes) (s : State) : Outcome :=
  whenIdle s (retOk (.packetShort (pktDec data).1 (pktDec data).2) s)

end Sys2Proof.Machine
end

