-- ==== Sys2Proof/Machine/Fragmenter.lean ====
section
/-! DEFINITION. The fragment sequencer (spec/42_fragmenter.md rules R170 to R180): one framer step per
fragment (R34, R170), with the command SLICE_SEND. -/

namespace Sys2Proof.Machine

/-- The header of fragment `t.k` (R172): sequence number, length, offset and push are stamped, every other
field is the template's (R180). `none` is the fault of `OFFSET_OVERFLOW = FAULT` (R178). -/
def fragmentHeader (t : Transfer) (seq : BitVec 4) : Option Header :=
  match chunkOffset offsetOverflow t.template.offset t.k with
  | none => none
  | some off =>
    some { t.template with
      sequenceNumber := seq.zeroExtend 8
      length := BitVec.ofNat 16 (chunkOf t.data t.k).length
      offset := off
      packetType := { t.template.packetType with push := decide (t.k + 1 = t.chunks) } }

/-- Assembles a datagram in `SENDBUF` (R173): the header at 0, the chunk behind it. -/
def assemble (hb chunk : Bytes) (m : Memory) : Option Memory :=
  match memWrite 0 hb m with
  | none => none
  | some m1 => memWrite hb.length chunk m1

/-- After a fragment of `n` bytes was sent (R174): the count is added and `SEQ` advanced; after the last
chunk the command ends with the total (R175). -/
def fragmentSent (t : Transfer) (n : Nat) (s : State) : Outcome :=
  if t.k + 1 < t.chunks then
    .next ((s.setSeq (seqAdvance s.seq)).setInflight (some { t with k := t.k + 1, total := t.total + n }))
  else retOk (.count (t.total + n)) (s.setSeq (seqAdvance s.seq))

/-- One iteration of the fragment loop (R170). -/
def sendFragment (t : Transfer) (s : State) : Outcome :=
  match fragmentHeader t s.seq with
  | none => .fault .offsetOverflow
  | some h =>
    match assemble (hdrEnc h) (chunkOf t.data t.k) s.sendbuf with
    | none => .fault .sendbufRange
    | some m =>
      match transmit ((hdrEnc h).length + (chunkOf t.data t.k).length) (s.setSendbuf m) with
      | .error f => .fault f
      | .ok (.err e, s') => raise .transportError (.transportInfo e) s'
      | .ok (.ok, s') => fragmentSent t ((hdrEnc h).length + (chunkOf t.data t.k).length) s'

/-- The transfer a `SLICE_SEND` begins with (R170). -/
def startTransfer (hdr : Header) (data : Bytes) : Transfer :=
  { template := hdr, data := data, k := 0, chunks := chunkCount data.length, total := 0 }

/-- `SLICE_SEND hdr, data` (R170): nothing is sent for an empty payload (R176); otherwise the first fragment
goes out in this step and the later ones in the framer steps after it (log 13). -/
def sliceSend (hdr : Header) (data : Bytes) (s : State) : Outcome :=
  if data.length = 0 then retOk (.count 0) s else sendFragment (startTransfer hdr data) s

/-- `SLICE_SEND hdr, data` (R170). -/
def execSliceSend (hdr : Header) (data : Bytes) (s : State) : Outcome := whenIdle s (sliceSend hdr data s)

end Sys2Proof.Machine
end

