-- ==== Sys2Proof/Machine/Connection.lean ====
section
/-! DEFINITION. The Connection operations (spec/44_connection.md rules R220 to R228): the write template, the
commands WRITE, WRITE_OFFSET, WRITE_MESSAGE and GET_INCOMING, and inbound delivery. -/

namespace Sys2Proof.Machine

/-- `TPL(off, id)` (R220). -/
def writeTemplate (s : State) (off : U32) (id : ID) : Header :=
  { packetType := { PacketType.zero with version := 1 }
    sequenceNumber := 0
    pixelConfig := s.cfgPixcfg
    id := id
    offset := off
    length := 0
    timecode := none }

/-- `WRITE data` (R221). -/
def execWrite (data : Bytes) (s : State) : Outcome :=
  whenIdle s (sliceSend (writeTemplate s 0 s.cfgId) data s)

/-- `WRITE_OFFSET data, offset` (R222). -/
def execWriteOffset (data : Bytes) (offset : U32) (s : State) : Outcome :=
  whenIdle s (sliceSend (writeTemplate s offset s.cfgId) data s)

/-- `WRITE_MESSAGE msg` (R223): the ID comes from the message; a serialization error precedes any datagram. -/
def execWriteMessage (msg : Message) (s : State) : Outcome :=
  whenIdle s <|
    match msgBody msg with
    | .error e => raise .serializationError (.serializationInfo e) s
    | .ok body => sliceSend (writeTemplate s 0 (msgId msg)) body s

/-- `GET_INCOMING` (R224): never blocks. -/
def execGetIncoming (s : State) : Outcome :=
  whenIdle s <|
    match s.inq with
    | [] => raise .emptyQueue .nothing s
    | p :: rest => retOk (.packet p) (s.setInq rest)

/-- Inbound delivery (R228), not a command: decodes the datagram and appends the packet to `INQ`, a short
one too (D25). -/
def deliver (b : Bytes) (s : State) : State := s.setInq (s.inq ++ [(pktDec b).1])

end Sys2Proof.Machine
end

