-- ==== Sys2Proof/Machine/FieldCodec.lean ====
section
/-! DEFINITION. The six field codec commands (spec/40_field_codecs.md rules R110 to R115). Each reads only
its operand and writes only `RESULT`, with status `OK`. -/

namespace Sys2Proof.Machine

/-- `FLAGS_ENC r` (R110). -/
def execFlagsEnc (r : PacketType) (s : State) : Outcome := whenIdle s (retOk (.byte (flagsEnc r)) s)

/-- `FLAGS_DEC b` (R111). -/
def execFlagsDec (b : Byte) (s : State) : Outcome := whenIdle s (retOk (.packetType (flagsDec b)) s)

/-- `PIXCFG_ENC r` (R112). -/
def execPixcfgEnc (r : PixelConfig) (s : State) : Outcome := whenIdle s (retOk (.byte (pixcfgEnc r)) s)

/-- `PIXCFG_DEC b` (R113). -/
def execPixcfgDec (b : Byte) (s : State) : Outcome := whenIdle s (retOk (.pixelConfig (pixcfgDec b)) s)

/-- `ID_ENC r` (R114). -/
def execIdEnc (r : ID) (s : State) : Outcome := whenIdle s (retOk (.byte (idEnc r)) s)

/-- `ID_DEC b` (R115). -/
def execIdDec (b : Byte) (s : State) : Outcome := whenIdle s (retOk (.id (idDec b)) s)

end Sys2Proof.Machine
end

