-- ==== Sys2Proof/Machine/Dispatch.lean ====
section
/-! DEFINITION. The meaning of each command: one arm per constructor, each one direct call. -/

namespace Sys2Proof.Machine

def exec (i : Instr) (s : State) : Host.Outcome State Fault Refusal :=
  match i with
  | .flagsEnc r => Sys2Proof.Machine.execFlagsEnc r s
  | .flagsDec b => Sys2Proof.Machine.execFlagsDec b s
  | .pixcfgEnc r => Sys2Proof.Machine.execPixcfgEnc r s
  | .pixcfgDec b => Sys2Proof.Machine.execPixcfgDec b s
  | .idEnc r => Sys2Proof.Machine.execIdEnc r s
  | .idDec b => Sys2Proof.Machine.execIdDec b s
  | .hdrEnc r => Sys2Proof.Machine.execHdrEnc r s
  | .hdrDec data => Sys2Proof.Machine.execHdrDec data s
  | .pktDec data => Sys2Proof.Machine.execPktDec data s
  | .sliceSend hdr data => Sys2Proof.Machine.execSliceSend hdr data s
  | .msgEnc msg => Sys2Proof.Machine.execMsgEnc msg s
  | .msgDec id data => Sys2Proof.Machine.execMsgDec id data s
  | .write data => Sys2Proof.Machine.execWrite data s
  | .writeOffset data offset => Sys2Proof.Machine.execWriteOffset data offset s
  | .writeMessage msg => Sys2Proof.Machine.execWriteMessage msg s
  | .getIncoming => Sys2Proof.Machine.execGetIncoming s

end Sys2Proof.Machine
end

