-- ==== Sys2Proof/Machine/Step.lean ====
section
/-! DEFINITION. One step of the block's world (spec/10_state.md rules R34 to R37). The environment's next
input decides who moves (log 2): the dispatcher at any step boundary, else the framer, which continues a
write in progress, else takes the command the host presents, else is idle. -/

namespace Sys2Proof.Machine

/-- Runs one presented command (R35): an unassigned opcode is checked before anything else (R249). -/
def runCommand (c : Command) (s : State) : Outcome :=
  match decode c with
  | .ok i => exec i s
  | .error e => illegalCommand e.opcode s

/-- A framer step in which the environment is silent: the next fragment of a write in progress, or nothing
while idle (R258). -/
def framerStep (s : State) : Outcome :=
  match s.inflight with
  | some t => sendFragment t s
  | none => .next s

def step (s : State) : Host.Outcome State Fault Refusal :=
  match s.inputs with
  | .datagram b :: rest => .next (deliver b (s.setInputs rest))
  | .quiet :: rest => framerStep (s.setInputs rest)
  | .command c :: rest =>
    match s.inflight with
    | none => runCommand c (s.setInputs rest)
    | some t => sendFragment t s
  | [] => framerStep s

/-- `s` with the command whose table bits are `w` presented next, and no write in progress, so that the very
next step decodes and runs exactly it (log 15). -/
def State.withFetchWord (s : State) (_nbits w : Nat) : State :=
  (s.setInflight none).setInputs (.command (tableCommand w) :: s.inputs)

end Sys2Proof.Machine
end

