-- ==== Sys2Proof/Machine/Construction.lean ====
section
/-! DEFINITION. Construction, the block's only reset (spec/70_reset_and_hazards.md rules R270 to R272). -/

namespace Sys2Proof.Machine

/-- The outcome of `CONSTRUCT` (R270): a framer in its first state, or no instance and a status. -/
inductive Constructed where
  | created (s : State)
  | failed (st : Status)
  deriving DecidableEq, Repr

/-- `CONSTRUCT(dest, pixel_config, id)` (R270). `resolved` is the draw of `RESOLVE(dest)`, which the
environment makes (I27): the resolved address, or `none` for an unresolvable one (R244). `content` is the draw
of `SENDBUF`'s unspecified bytes (I24; log 7). The pixel config and the ID have the defaults R270 names. -/
def construct (resolved : Option Address) (content : Nat → Byte) (pixcfg : PixelConfig := defaultPixcfg)
    (id : ID := .default) : Constructed :=
  match resolved with
  | some a => .created (State.fresh a content pixcfg id)
  | none => .failed .addressResolutionError

end Sys2Proof.Machine
end

