-- ==== Sys2Proof/Safety.lean ====
section
/-! DEFINITION. What counts as a good state and a right send, in the terms the claims use. The formulas here
are written from the rules once more, beside the machine's own operations, so that a claim compares two
texts of one rule. -/

namespace Sys2Proof.Machine

/-- A packet as the decoder builds it: its header is one the wire can carry, and a parsed message is there
only with the reply flag set (R148), tagged with the header's ID (R199, R200). -/
def PacketOk (p : Packet) : Prop :=
  p.header.wellFormed = true ∧
    ∀ m, p.parsed = some m → p.header.packetType.reply = true ∧ msgId m = p.header.id

/-- A datagram as the block builds it (R86, R81): a header and 1 to 1440 payload bytes, with a sequence byte
of 1 to 15. -/
def DatagramOk (bs : Bytes) : Prop :=
  11 ≤ bs.length ∧ bs.length ≤ 1454 ∧ 1 ≤ (byteAt bs 1).toNat ∧ (byteAt bs 1).toNat ≤ 15

/-- A write in progress between two of its fragments (R32): some chunks sent, some left, and the total of the
full fragments sent so far. -/
def TransferOk (t : Transfer) : Prop :=
  t.chunks = (t.data.length + 1439) / 1440 ∧ 0 < t.k ∧ t.k < t.chunks ∧
    t.total = t.k * ((if t.template.packetType.timecode then 14 else 10) + 1440)

/-- The invariant of the block. -/
structure State.Inv (s : State) : Prop where
  /-- `SEQ` is never 0 (R26). -/
  seq_ne_zero : s.seq ≠ 0
  /-- `SENDBUF` has its `SENDBUF_SIZE` bytes (R27). -/
  sendbuf_wf : Memory.wf s.sendbuf = true
  /-- Every packet of `INQ` is one the decoder builds (R145). -/
  inq_ok : ∀ p ∈ s.inq, PacketOk p
  /-- Every datagram handed over went to `CFG_DEST` (R23) and is one the block builds. -/
  txlog_ok : ∀ e ∈ s.txlog, e.dest = s.cfgDest ∧ DatagramOk e.bytes
  /-- A write in progress is between two of its fragments. -/
  inflight_ok : ∀ t, s.inflight = some t → TransferOk t
  /-- No command returns the outcome of a failed construction (R240). -/
  result_ok : ∀ r, s.result = some r → r.status ≠ .addressResolutionError

/-- `ceil(N / 1440)` (R171). -/
def fragmentsOf (n : Nat) : Nat := (n + 1439) / 1440

/-- The sequence number of the k-th fragment (from 0) of a send that begins at `SEQ = s` (R179). -/
def sequenceAt (s : BitVec 4) (k : Nat) : Nat := (s.toNat - 1 + k) % 15 + 1

/-- The header of fragment `k` of `n` (R172, R178, R180). -/
def stampedHeader (hdr : Header) (data : Bytes) (k n : Nat) (seq : BitVec 4) : Header :=
  { hdr with
    sequenceNumber := BitVec.ofNat 8 seq.toNat
    length := BitVec.ofNat 16 (min 1440 (data.length - k * 1440))
    offset := hdr.offset + BitVec.ofNat 32 (k * 1440)
    packetType := { hdr.packetType with push := decide (k + 1 = n) } }

/-- The datagram of fragment `k` of `n` (R86, R171, R173). -/
def datagramOf (hdr : Header) (data : Bytes) (k n : Nat) (seq : BitVec 4) : Bytes :=
  hdrEnc (stampedHeader hdr data k n seq) ++ (data.drop (k * 1440)).take 1440

/-- Everything one iteration of the fragment loop does (R170): `s` before, `u` after. The configuration, the
inbound queue and the presented commands are as before; the datagram is in `SENDBUF` from index 0, with every
byte behind it as before (R173); the hand-over is recorded (R36). On `Ok` the counter advances and the write
goes on or ends with the total (R174, R175); on `Err(e)` it ends at once and the counter stays (R177). -/
def FragmentDone (t : Transfer) (s u : State) : Prop :=
  let d := datagramOf t.template t.data t.k t.chunks s.seq
  u.cfgDest = s.cfgDest ∧ u.cfgPixcfg = s.cfgPixcfg ∧ u.cfgId = s.cfgId ∧ u.inq = s.inq ∧
  u.inputs = s.inputs ∧ u.txScript = s.txScript.tail ∧
  u.txlog = s.txlog ++ [{ dest := s.cfgDest, bytes := d, outcome := nextOutcome s }] ∧
  (∀ a, sendbufByte u.sendbuf a = if a < d.length then d[a]? else sendbufByte s.sendbuf a) ∧
  match nextOutcome s with
  | .err e =>
    u.seq = s.seq ∧ u.inflight = none ∧
      u.result = some { status := .transportError, value := .transportInfo e }
  | .ok =>
    u.seq = (if s.seq = 15 then 1 else s.seq + 1) ∧
      if t.k + 1 < t.chunks then
        u.inflight = some { t with k := t.k + 1, total := t.total + d.length } ∧ u.result = s.result
      else u.inflight = none ∧
        u.result = some { status := .ok, value := .count (t.total + d.length) }

/-- The transfer a send begins with (R170). -/
def firstTransfer (hdr : Header) (data : Bytes) : Transfer :=
  { template := hdr, data := data, k := 0, chunks := fragmentsOf data.length, total := 0 }

/-- What a send command does in its own step: nothing but `RESULT` for an empty payload (R176), else the
first fragment. -/
def SendBegins (hdr : Header) (data : Bytes) (s u : State) : Prop :=
  if data = [] then u = { s with result := some { status := .ok, value := .count 0 } }
  else FragmentDone (firstTransfer hdr data) s u

/-- The datagram of fragment `k` of a send that begins in `s` (R170, R179). -/
def sentDatagram (s : State) (hdr : Header) (data : Bytes) (k : Nat) : Bytes :=
  datagramOf hdr data k (fragmentsOf data.length) (BitVec.ofNat 4 (sequenceAt s.seq k))

/-- The byte of `SENDBUF` at `a` once the fragments 0 to `j` of a send that begins in `s` are assembled (R27):
that of fragment `j`; behind it, older bytes: those of the full fragment before it, where there is one, and
else what stood there before the send. -/
def sendbufAfter (s : State) (hdr : Header) (data : Bytes) (j a : Nat) : Option Byte :=
  if a < (sentDatagram s hdr data j).length then (sentDatagram s hdr data j)[a]?
  else if 0 < j ∧ a < (sentDatagram s hdr data (j - 1)).length then (sentDatagram s hdr data (j - 1))[a]?
  else sendbufByte s.sendbuf a

/-- The template of the write commands (R220). -/
def templateOf (s : State) (offset : U32) (id : ID) : Header :=
  { packetType :=
      { version := 1, timecode := false, storage := false, reply := false, query := false, push := false }
    sequenceNumber := 0
    pixelConfig := s.cfgPixcfg
    id := id
    offset := offset
    length := 0
    timecode := none }

/-- The opcode selects the command and its operands, whatever the other operand lines hold (R89, R94). -/
def Assigned (op : Byte) (f : Operands → Instr) : Prop := ∀ o, decode { op := op, operands := o } = .ok (f o)

/-- The 16 opcodes of the table in R89. -/
def assignedOpcodes : List Byte :=
  [0x10, 0x11, 0x12, 0x13, 0x14, 0x15, 0x20, 0x21, 0x22, 0x30, 0x40, 0x41, 0x50, 0x51, 0x52, 0x53]

/-- The bytes of the canonical IDs (R79), the complement of `CUSTOM_RANGE`. -/
def canonicalBytes : List Byte := [0, 1, 246, 250, 251, 254, 255]

/-- `s` with the result of a command that ended `OK`. -/
def okWith (v : Value) (s : State) : State := { s with result := some { status := .ok, value := v } }

/-- `s` with the result of a command that ended in an error. -/
def failedWith (st : Status) (v : Value) (s : State) : State :=
  { s with result := some { status := st, value := v } }

/-- A short input (R143). -/
def ShortInput (data : Bytes) : Prop :=
  data.length < 10 ∨ (data.length < 14 ∧ (byteAt data 0).getLsbD 4 = true)

/-- `DEFAULT_HEADER` (R142). -/
def DefaultHeader : Header :=
  { packetType :=
      { version := 1, timecode := false, storage := false, reply := false, query := false, push := false }
    sequenceNumber := 0
    pixelConfig := { dataType := .rgb, dataSize := .bits24, customerDefined := false }
    id := .default
    offset := 0
    length := 0
    timecode := none }

/-- The unsigned value of bytes, most significant first (R15, R50). -/
def bigEndian : Bytes → Nat
  | [] => 0
  | b :: bs => b.toNat * 256 ^ bs.length + bigEndian bs

/-- The units of well-formed UTF-8, by the rows of the table in R196. -/
def Utf8Unit (u : List Nat) : Prop :=
  (∃ a, u = [a] ∧ a ≤ 0x7F) ∨
  (∃ a b, u = [a, b] ∧ 0xC2 ≤ a ∧ a ≤ 0xDF ∧ 0x80 ≤ b ∧ b ≤ 0xBF) ∨
  (∃ b c, u = [0xE0, b, c] ∧ 0xA0 ≤ b ∧ b ≤ 0xBF ∧ 0x80 ≤ c ∧ c ≤ 0xBF) ∨
  (∃ a b c, u = [a, b, c] ∧ 0xE1 ≤ a ∧ a ≤ 0xEC ∧ 0x80 ≤ b ∧ b ≤ 0xBF ∧ 0x80 ≤ c ∧ c ≤ 0xBF) ∨
  (∃ b c, u = [0xED, b, c] ∧ 0x80 ≤ b ∧ b ≤ 0x9F ∧ 0x80 ≤ c ∧ c ≤ 0xBF) ∨
  (∃ a b c, u = [a, b, c] ∧ 0xEE ≤ a ∧ a ≤ 0xEF ∧ 0x80 ≤ b ∧ b ≤ 0xBF ∧ 0x80 ≤ c ∧ c ≤ 0xBF) ∨
  (∃ b c d, u = [0xF0, b, c, d] ∧ 0x90 ≤ b ∧ b ≤ 0xBF ∧ 0x80 ≤ c ∧ c ≤ 0xBF ∧ 0x80 ≤ d ∧ d ≤ 0xBF) ∨
  (∃ a b c d, u = [a, b, c, d] ∧ 0xF1 ≤ a ∧ a ≤ 0xF3 ∧ 0x80 ≤ b ∧ b ≤ 0xBF ∧ 0x80 ≤ c ∧ c ≤ 0xBF ∧
    0x80 ≤ d ∧ d ≤ 0xBF) ∨
  (∃ b c d, u = [0xF4, b, c, d] ∧ 0x80 ≤ b ∧ b ≤ 0x8F ∧ 0x80 ≤ c ∧ c ≤ 0xBF ∧ 0x80 ≤ d ∧ d ≤ 0xBF)

/-- Bytes made only of well-formed units (R196). -/
def Utf8WellFormed (data : Bytes) : Prop :=
  ∃ units : List (List Nat), (∀ u ∈ units, Utf8Unit u) ∧ data.map BitVec.toNat = units.flatten

/-- The instructions that only compute a result (R56). -/
def Codec : Instr → Bool
  | .flagsEnc _ => true
  | .flagsDec _ => true
  | .pixcfgEnc _ => true
  | .pixcfgDec _ => true
  | .idEnc _ => true
  | .idDec _ => true
  | .hdrEnc _ => true
  | .hdrDec _ => true
  | .pktDec _ => true
  | .msgEnc _ => true
  | .msgDec _ _ => true
  | .sliceSend _ _ => false
  | .write _ => false
  | .writeOffset _ _ => false
  | .writeMessage _ => false
  | .getIncoming => false

/-- The instructions that reach the transport (R222 to R227). -/
def Sends : Instr → Bool
  | .sliceSend _ _ => true
  | .write _ => true
  | .writeOffset _ _ => true
  | .writeMessage _ => true
  | .flagsEnc _ => false
  | .flagsDec _ => false
  | .pixcfgEnc _ => false
  | .pixcfgDec _ => false
  | .idEnc _ => false
  | .idDec _ => false
  | .hdrEnc _ => false
  | .hdrDec _ => false
  | .pktDec _ => false
  | .msgEnc _ => false
  | .msgDec _ _ => false
  | .getIncoming => false

/-- The header and the payload a sending instruction hands to the fragmenter (R221 to R223); `none` where it
sends nothing, a message whose serializer fails among them. -/
def payloadOf (s : State) : Instr → Option (Header × Bytes)
  | .sliceSend hdr data => some (hdr, data)
  | .write data => some (templateOf s 0 s.cfgId, data)
  | .writeOffset data offset => some (templateOf s offset s.cfgId, data)
  | .writeMessage msg =>
    match msgBody msg with
    | .ok body => some (templateOf s 0 (msgId msg), body)
    | .error _ => none
  | .flagsEnc _ => none
  | .flagsDec _ => none
  | .pixcfgEnc _ => none
  | .pixcfgDec _ => none
  | .idEnc _ => none
  | .idDec _ => none
  | .hdrEnc _ => none
  | .hdrDec _ => none
  | .pktDec _ => none
  | .msgEnc _ => none
  | .msgDec _ _ => none
  | .getIncoming => none

/-- The packet delivered into a state's queue at its tail: the state after, all else equal (R228). -/
def withPacket (p : Packet) : Outcome → Outcome
  | .next s => .next { s with inq := s.inq ++ [p] }
  | .fault f => .fault f
  | .refused r => .refused r

end Sys2Proof.Machine
end

