-- ==== Sys2Proof/Certificates/Slice0/Obligations.lean ====
section
/-! DEFINITION. The statements about the machine, from the numbered rules of spec/. Each says in its docstring
which rule it formalises. -/

open Sys2Proof Sys2Proof.Machine

/-! ## The field codecs -/

/-- R110: the flags byte, field by field; bit 5 is 0 (the spec's decision D10); version 0 is read back as
version 1 (its decision D7, log 9). -/
def Obligations.FlagsEncodeBits : Prop :=
  Assigned 0x10 (fun o => .flagsEnc o.packetType) ∧
  ∀ (s : State) (r : PacketType), s.inflight = none →
    ∃ b : Byte, exec (.flagsEnc r) s = .next (okWith (.byte b) s) ∧
      b.extractLsb' 6 2 = r.version ∧ b.getLsbD 5 = false ∧ b.getLsbD 4 = r.timecode ∧
      b.getLsbD 3 = r.storage ∧ b.getLsbD 2 = r.reply ∧ b.getLsbD 1 = r.query ∧ b.getLsbD 0 = r.push ∧
      (r.version = 0 → (flagsDec b).version = 1)

/-- R111: every byte decodes; version bits 00 give version 1 (the spec's decision D7, log 9); bit 5 is ignored
(its decision D10). -/
def Obligations.FlagsDecodeFields : Prop :=
  Assigned 0x11 (fun o => .flagsDec o.byte) ∧
  ∀ (s : State) (b : Byte), s.inflight = none →
    ∃ r : PacketType, exec (.flagsDec b) s = .next (okWith (.packetType r) s) ∧
      r.version = (if b.extractLsb' 6 2 = 0 then 1 else b.extractLsb' 6 2) ∧
      r.timecode = b.getLsbD 4 ∧ r.storage = b.getLsbD 3 ∧ r.reply = b.getLsbD 2 ∧
      r.query = b.getLsbD 1 ∧ r.push = b.getLsbD 0 ∧
      exec (.flagsDec (b ^^^ 0x20)) s = exec (.flagsDec b) s

/-- R117: the two laws of the flags codec, with the spec's decisions D7 for version bits 00 (log 9) and D10 for
the cleared bit 5 (log 22). -/
def Obligations.FlagsRoundTrip : Prop :=
  (∀ r : PacketType, r.version = 1 ∨ r.version = 2 ∨ r.version = 3 → flagsDec (flagsEnc r) = r) ∧
  ∀ b : Byte, flagsEnc (flagsDec b) =
    if b.extractLsb' 6 2 = 0 then (b &&& 0xDF) ||| 0x40 else b &&& 0xDF

/-- R112: the pixel config byte, field by field, by the codes of R76 and R77; bit 6 is 0 (the
spec's decision D11). -/
def Obligations.PixcfgEncodeBits : Prop :=
  Assigned 0x12 (fun o => .pixcfgEnc o.pixelConfig) ∧
  ∀ (s : State) (r : PixelConfig), s.inflight = none →
    ∃ b : Byte, exec (.pixcfgEnc r) s = .next (okWith (.byte b) s) ∧
      b.getLsbD 7 = r.customerDefined ∧ b.getLsbD 6 = false ∧
      (b.extractLsb' 3 3).toNat =
        (match r.dataType with
          | .undefined => 0 | .rgb => 1 | .hsl => 2 | .rgbw => 3 | .grayscale => 4) ∧
      (b.extractLsb' 0 3).toNat =
        (match r.dataSize with
          | .undefined => 0 | .bits1 => 1 | .bits4 => 2 | .bits8 => 3 | .bits16 => 4 | .bits24 => 5
          | .bits32 => 6)

/-- R113: every byte decodes; the type codes 5, 6, 7 and the size code 7 give `Undefined`; bit 6 is ignored
(the spec's decision D11). -/
def Obligations.PixcfgDecodeFields : Prop :=
  Assigned 0x13 (fun o => .pixcfgDec o.byte) ∧
  ∀ (s : State) (b : Byte), s.inflight = none →
    ∃ r : PixelConfig, exec (.pixcfgDec b) s = .next (okWith (.pixelConfig r) s) ∧
      r.customerDefined = b.getLsbD 7 ∧
      r.dataType = (match (b.extractLsb' 3 3).toNat with
        | 1 => .rgb | 2 => .hsl | 3 => .rgbw | 4 => .grayscale | _ => .undefined) ∧
      r.dataSize = (match (b.extractLsb' 0 3).toNat with
        | 1 => .bits1 | 2 => .bits4 | 3 => .bits8 | 4 => .bits16 | 5 => .bits24 | 6 => .bits32
        | _ => .undefined) ∧
      exec (.pixcfgDec (b ^^^ 0x40)) s = exec (.pixcfgDec b) s

/-- R118: the two laws of the pixel config codec; that bit 6 is cleared is the spec's decision D11 (log 22). -/
def Obligations.PixcfgRoundTrip : Prop :=
  (∀ r : PixelConfig, pixcfgDec (pixcfgEnc r) = r) ∧
  ∀ b : Byte, pixcfgEnc (pixcfgDec b) =
    (b &&& 0xBF) &&& (if (b.extractLsb' 3 3).toNat ≤ 4 then 0xFF else 0xC7)
      &&& (if (b.extractLsb' 0 3).toNat ≤ 6 then 0xFF else 0xF8)

/-- R114: the byte of every ID; `Custom` outside `CUSTOM_RANGE` is clamped to 1. That Control is 246 is the
spec's decision D9 (log 10). -/
def Obligations.IdEncodeBytes : Prop :=
  Assigned 0x14 (fun o => .idEnc o.id) ∧
  ∀ (s : State) (r : ID), s.inflight = none →
    exec (.idEnc r) s = .next (okWith (.byte (match r with
      | .reserved => 0 | .default => 1 | .control => 246 | .config => 250 | .status => 251 | .dmx => 254
      | .broadcast => 255
      | .custom v => if v ∈ canonicalBytes then 1 else v)) s)

/-- R115: the ID of every byte, with Control at 246 by the spec's decision D9 (log 10). -/
def Obligations.IdDecodeTotal : Prop :=
  Assigned 0x15 (fun o => .idDec o.byte) ∧
  ∀ s : State, s.inflight = none →
    exec (.idDec 0) s = .next (okWith (.id .reserved) s) ∧
    exec (.idDec 1) s = .next (okWith (.id .default) s) ∧
    exec (.idDec 246) s = .next (okWith (.id .control) s) ∧
    exec (.idDec 250) s = .next (okWith (.id .config) s) ∧
    exec (.idDec 251) s = .next (okWith (.id .status) s) ∧
    exec (.idDec 254) s = .next (okWith (.id .dmx) s) ∧
    exec (.idDec 255) s = .next (okWith (.id .broadcast) s) ∧
    ∀ b : Byte, b ∉ canonicalBytes → exec (.idDec b) s = .next (okWith (.id (.custom b)) s)

/-- R119: the laws of the ID codec, with Control at 246 by the spec's decision D9 (log 10). -/
def Obligations.IdRoundTrip : Prop :=
  (∀ b : Byte, idEnc (idDec b) = b) ∧
  (∀ i : ID, (∀ v, i ≠ .custom v) → idDec (idEnc i) = i) ∧
  (∀ v : Byte, v ∉ canonicalBytes → idDec (idEnc (.custom v)) = .custom v) ∧
  (∀ v : Byte, v ∈ canonicalBytes → idDec (idEnc (.custom v)) = .default)

/-- R120 over the advance of R116: period 15, and the stamp of the n-th fragment after a start at 1. -/
def Obligations.SequencePeriod : Prop :=
  (∀ s : BitVec 4, s ≠ 0 → seqAdvance^[15] s = s) ∧
  ∀ n : Nat, 1 ≤ n → (seqAdvance^[n - 1] 1).toNat = (n - 1) % 15 + 1

/-- R116: the advance maps 15 to 1, every other value to its successor, and never gives 0; a step advances
`SEQ` exactly when it hands over a datagram that the transport answers with `Ok`, and else leaves it. -/
def Obligations.SequenceAdvance : Prop :=
  seqAdvance 15 = 1 ∧ (∀ s : BitVec 4, s ≠ 15 → seqAdvance s = s + 1) ∧ (∀ s : BitVec 4, seqAdvance s ≠ 0) ∧
  ∀ s u : State, step s = .next u →
    (∀ e, u.txlog = s.txlog ++ [e] → e.outcome = .ok → u.seq = seqAdvance s.seq) ∧
    ((∀ e, u.txlog = s.txlog ++ [e] → e.outcome ≠ .ok) → u.seq = s.seq)

/-! ## The header codec and the packet decoder -/

/-- R140: the bytes of a header, 10 or 14 of them; what is written where flag and timecode value disagree is
the spec's decision D15, and the whole sequence byte its decision D12 (log 22). -/
def Obligations.HeaderEncodeLayout : Prop :=
  Assigned 0x20 (fun o => .hdrEnc o.header) ∧
  ∀ (s : State) (h : Header), s.inflight = none →
    ∃ bs tc : Bytes, exec (.hdrEnc h) s = .next (okWith (.bytes bs) s) ∧
      bs = [flagsEnc h.packetType, h.sequenceNumber, pixcfgEnc h.pixelConfig, idEnc h.id,
        BitVec.ofNat 8 (h.offset.toNat / 2 ^ 24), BitVec.ofNat 8 (h.offset.toNat / 2 ^ 16),
        BitVec.ofNat 8 (h.offset.toNat / 2 ^ 8), BitVec.ofNat 8 h.offset.toNat,
        BitVec.ofNat 8 (h.length.toNat / 2 ^ 8), BitVec.ofNat 8 h.length.toNat] ++ tc ∧
      (h.packetType.timecode = false → tc = [] ∧ bs.length = 10) ∧
      (h.packetType.timecode = true → tc.length = 4 ∧ bs.length = 14 ∧
        bigEndian tc = (match h.timecode with | some x => x.toNat | none => 0))

/-- R84: the encoded header has 14 bytes with the timecode flag, the last four of them the timecode
big-endian, and 10 without; a decoder tells the length from bit 4 of byte 0 alone. -/
def Obligations.HeaderLengthByTimecode : Prop :=
  (∀ h : Header, (hdrEnc h).length = if h.packetType.timecode then 14 else 10) ∧
  (∀ (h : Header) (x : U32), h.packetType.timecode = true → h.timecode = some x →
    bigEndian ((hdrEnc h).drop 10) = x.toNat) ∧
  ∀ data : Bytes, ¬ ShortInput data → (hdrDec data).2.1 = if (byteAt data 0).getLsbD 4 then 14 else 10

/-- R141 with R142 and R143: the short inputs and what they give (the default header is the spec's decision
D13), and the fields of every other input, with the whole sequence byte (its decision D12; log 22). -/
def Obligations.HeaderDecodeFields : Prop :=
  Assigned 0x21 (fun o => .hdrDec o.data) ∧
  ∀ (s : State) (data : Bytes), s.inflight = none →
    (ShortInput data → exec (.hdrDec data) s = .next (okWith (.header DefaultHeader 0 true) s)) ∧
    (¬ ShortInput data → ∃ h : Header,
      exec (.hdrDec data) s =
        .next (okWith (.header h (if (byteAt data 0).getLsbD 4 then 14 else 10) false) s) ∧
      h.packetType = flagsDec (byteAt data 0) ∧ h.sequenceNumber = byteAt data 1 ∧
      h.pixelConfig = pixcfgDec (byteAt data 2) ∧ h.id = idDec (byteAt data 3) ∧
      h.offset.toNat = bigEndian ((data.drop 4).take 4) ∧
      h.length.toNat = bigEndian ((data.drop 8).take 2) ∧
      h.timecode.isSome = (byteAt data 0).getLsbD 4 ∧
      ∀ x ∈ h.timecode, x.toNat = bigEndian ((data.drop 10).take 4))

/-- R144: decoding an encoded header gives it back, whatever bytes follow, in both header forms. That the whole
sequence byte is carried is the spec's decision D12, and which headers are consistent its decision D15 (log 22);
the Control ID's byte is its decision D9 (log 10). -/
def Obligations.HeaderRoundTrip : Prop :=
  ∀ (s : State) (h : Header) (t : Bytes), s.inflight = none → h.wellFormed = true →
    exec (.hdrDec (hdrEnc h ++ t)) s =
      .next (okWith (.header h (if h.packetType.timecode then 14 else 10) false) s)

/-- R148: a payload is parsed exactly when the reply flag is set, under the header's ID; no other flag has a
part in it. The second clause says it of the bytes received; there the payload is every byte after the header
(R84, R146, R147), untrimmed by the spec's decision D14 (log 22). -/
def Obligations.ReplyFlagGatesParsing : Prop :=
  (∀ data : Bytes, (pktDec data).1.parsed =
    if (pktDec data).1.header.packetType.reply then
      msgDec (pktDec data).1.header.id (pktDec data).1.data
    else none) ∧
  ∀ data : Bytes, ¬ ShortInput data →
    (pktDec data).1.parsed =
      if (byteAt data 0).getLsbD 2 then
        msgDec (idDec (byteAt data 3)) (data.drop (if (byteAt data 0).getLsbD 4 then 14 else 10))
      else none

/-- R146, R147: the empty packet for a short input (the spec's decision D13); otherwise the payload is every
byte after the header, untrimmed (its decision D14). -/
def Obligations.PacketDecodeParts : Prop :=
  Assigned 0x22 (fun o => .pktDec o.data) ∧
  ∀ (s : State) (data : Bytes), s.inflight = none →
    (ShortInput data → exec (.pktDec data) s =
      .next (okWith (.packetShort { header := DefaultHeader, data := [], parsed := none } true) s)) ∧
    (¬ ShortInput data → ∃ p : Packet,
      exec (.pktDec data) s = .next (okWith (.packetShort p false) s) ∧
      p.header = (hdrDec data).1 ∧
      p.data = data.drop (if p.header.packetType.timecode then 14 else 10) ∧
      p.parsed = if p.header.packetType.reply then msgDec p.header.id p.data else none)

/-- R149: whatever the bytes, both decoders end with status `OK`. -/
def Obligations.HeaderDecodersAlwaysOk : Prop :=
  ∀ (s : State) (data : Bytes), s.inflight = none →
    (∃ v, exec (.hdrDec data) s = .next (okWith v s)) ∧ ∃ v, exec (.pktDec data) s = .next (okWith v s)

/-! ## The fragment sequencer -/

/-- R176: an empty payload sends nothing and returns 0; nothing but `RESULT` is written. -/
def Obligations.EmptyPayloadSendsNothing : Prop :=
  ∀ (s : State) (hdr : Header), s.inflight = none →
    exec (.sliceSend hdr []) s = .next (okWith (.count 0) s)

/-- R171: the chunks are the consecutive pieces of the payload and hold every byte once; all but the last
are full. -/
def Obligations.ChunkPartition : Prop :=
  ∀ data : Bytes, data ≠ [] →
    chunkCount data.length = fragmentsOf data.length ∧
    (∀ k, k < fragmentsOf data.length →
      chunkOf data k = (data.take (min ((k + 1) * 1440) data.length)).drop (k * 1440)) ∧
    ((List.range (fragmentsOf data.length)).map (chunkOf data)).flatten = data ∧
    (∀ k, k + 1 < fragmentsOf data.length → (chunkOf data k).length = 1440) ∧
    (chunkOf data (fragmentsOf data.length - 1)).length
      = data.length - (fragmentsOf data.length - 1) * 1440 ∧
    1 ≤ (chunkOf data (fragmentsOf data.length - 1)).length ∧
    (chunkOf data (fragmentsOf data.length - 1)).length ≤ 1440

/-- R178: the offset is exact while it fits 32 bits; beyond, it wraps under `WRAP` (this hardware, by the
spec's decision D17; log 11) and there is none under `FAULT`. -/
def Obligations.OffsetArithmetic : Prop :=
  offsetOverflow = .wrap ∧
  ∀ (base : U32) (k : Nat),
    (base.toNat + k * 1440 ≤ 2 ^ 32 - 1 → ∀ p, ∃ o, chunkOffset p base k = some o ∧
      o.toNat = base.toNat + k * 1440) ∧
    (2 ^ 32 - 1 < base.toNat + k * 1440 → chunkOffset .fault base k = none ∧
      ∃ o, chunkOffset .wrap base k = some o ∧ o.toNat = (base.toNat + k * 1440) % 2 ^ 32)

/-- R172, R180: what a fragment's header holds: the four stamped fields, and the template's in every other.
Push clear on every fragment but the last is the spec's decision D16; the offset is cumulative by the source's
assumption C3 (log 21), and modulo `2^32` by R178 under the spec's decision D17 (log 11). -/
def Obligations.FragmentStamping : Prop :=
  ∀ (t : Transfer) (seq : BitVec 4), ∃ h : Header, fragmentHeader t seq = some h ∧
    h.sequenceNumber.toNat = seq.toNat ∧
    h.length.toNat = (chunkOf t.data t.k).length ∧
    h.offset.toNat = (t.template.offset.toNat + t.k * 1440) % 2 ^ 32 ∧
    (h.packetType.push = true ↔ t.k + 1 = t.chunks) ∧
    h.packetType.version = t.template.packetType.version ∧
    h.packetType.timecode = t.template.packetType.timecode ∧
    h.packetType.storage = t.template.packetType.storage ∧
    h.packetType.reply = t.template.packetType.reply ∧
    h.packetType.query = t.template.packetType.query ∧
    h.pixelConfig = t.template.pixelConfig ∧ h.id = t.template.id ∧ h.timecode = t.template.timecode

/-- R170, R173, R174 for the step of the command itself: it always answers a next state, and that state is
what the first iteration of the loop leaves (`RESULT` alone for an empty payload). That one step sends one
fragment is the model's reading of R34 (log 13). In the datagram, push is the spec's decision D16, and that
the offset is the template's rests on C3 (log 21); older bytes of `SENDBUF` stay by its decision D30 (log 22). -/
def Obligations.SliceSendFirstStep : Prop :=
  Assigned 0x30 (fun o => .sliceSend o.header o.data) ∧
  ∀ (s : State) (hdr : Header) (data : Bytes), s.inflight = none →
    ∃ u, exec (.sliceSend hdr data) s = .next u ∧ SendBegins hdr data s u

/-- R170, R173, R174, R177 for every later step: while a write is in progress and no datagram is delivered,
a step is one more iteration of the loop (one fragment a step: R34, log 13). R35 says that the host presents no
command then; that one at the head of the model's own input list waits unread is the model's choice (logs 2, 14).
In the datagram, push is the spec's decision D16, and the offset rests on C3 and D17 (logs 21, 11); older bytes
of `SENDBUF` stay by its decision D30 (log 22). -/
def Obligations.FramerStepSendsNextFragment : Prop :=
  ∀ (s : State) (t : Transfer), s.inflight = some t →
    (s.inputs = [] → ∃ u, step s = .next u ∧ FragmentDone t s u) ∧
    (∀ c rest, s.inputs = .command c :: rest → ∃ u, step s = .next u ∧ FragmentDone t s u) ∧
    (∀ rest, s.inputs = .quiet :: rest →
      ∃ u, step s = .next u ∧ FragmentDone t { s with inputs := rest } u)

/-- R179, R175: a send whose datagrams all go out, from its first step to its last: `K` datagrams, each
stamped, the result, the counter, what `SENDBUF` holds then (R27), and everything else unchanged. The stamped
offsets are cumulative by the source's assumption C3 (log 21) and wrap by the spec's decision D17 (log 11); push
is its decision D16, and older bytes of `SENDBUF` stay by its D30 (log 22). One fragment a step is log 13. -/
def Obligations.SliceSendWholeRun : Prop :=
  ∀ (s : State) (hdr : Header) (data : Bytes) (rest : List TxOutcome),
    s.inflight = none → s.inputs = [] → s.seq ≠ 0 → data ≠ [] →
    s.txScript = List.replicate (fragmentsOf data.length) TxOutcome.ok ++ rest →
    ∃ u v : State, exec (.sliceSend hdr data) s = .next u ∧
      Host.Core.run Sys2Proof.core (fragmentsOf data.length - 1) u = .next v ∧
      v.inflight = none ∧
      v.result = some (Result.mk .ok (.count
        (fragmentsOf data.length * (if hdr.packetType.timecode then 14 else 10) + data.length))) ∧
      v.seq.toNat = sequenceAt s.seq (fragmentsOf data.length) ∧
      v.txlog = s.txlog ++ (List.range (fragmentsOf data.length)).map (fun k =>
        TxEntry.mk s.cfgDest (sentDatagram s hdr data k) .ok) ∧
      (∀ a, sendbufByte v.sendbuf a = sendbufAfter s hdr data (fragmentsOf data.length - 1) a) ∧
      v.txScript = rest ∧ v.inq = s.inq ∧ v.inputs = [] ∧
      v.cfgDest = s.cfgDest ∧ v.cfgPixcfg = s.cfgPixcfg ∧ v.cfgId = s.cfgId

/-- R177: the first failing `Transmit`, at chunk `j`, ends the command: `j` datagrams went out, one is
recorded as failed, nothing after it is sent, the counter has advanced `j` times, `SENDBUF` holds the failing
datagram, and everything else is unchanged. The stamped offsets are cumulative by the source's assumption C3
(log 21) and wrap by the spec's decision D17 (log 11); push is its decision D16, and older bytes of `SENDBUF`
stay by its D30 (log 22). One fragment a step is log 13. -/
def Obligations.TransportFailureAborts : Prop :=
  ∀ (s : State) (hdr : Header) (data : Bytes) (rest : List TxOutcome) (j : Nat) (e : TransportError),
    s.inflight = none → s.inputs = [] → s.seq ≠ 0 → j < fragmentsOf data.length →
    s.txScript = List.replicate j TxOutcome.ok ++ .err e :: rest →
    ∃ u v : State, exec (.sliceSend hdr data) s = .next u ∧
      Host.Core.run Sys2Proof.core j u = .next v ∧
      v.inflight = none ∧
      v.result = some { status := .transportError, value := .transportInfo e } ∧
      v.seq.toNat = sequenceAt s.seq j ∧
      v.txlog = s.txlog ++ (List.range (j + 1)).map (fun k =>
        TxEntry.mk s.cfgDest (sentDatagram s hdr data k) (if k < j then .ok else .err e)) ∧
      (∀ a, sendbufByte v.sendbuf a = sendbufAfter s hdr data j a) ∧
      v.txScript = rest ∧ v.inq = s.inq ∧ v.inputs = [] ∧
      v.cfgDest = s.cfgDest ∧ v.cfgPixcfg = s.cfgPixcfg ∧ v.cfgId = s.cfgId

/-- R282: a write in progress ends within its remaining chunks, whatever the transport answers. That every
`Transmit` returns is the spec's decision D26 (log 19); that a later chunk's offset stops no write is its
decision D17, `WRAP` (log 11), under which there is no fault; one fragment a step is log 13. -/
def Obligations.WriteTerminates : Prop :=
  ∀ (s : State) (t : Transfer), s.inflight = some t → s.inputs = [] → t.k < t.chunks →
    ∃ (n : Nat) (u : State), n ≤ t.chunks - t.k ∧ Host.Core.run Sys2Proof.core n s = .next u ∧
      u.inflight = none

/-! ## The message codec -/

/-- R197, R195: each kind of message through its own serializer (`Unparsed` as raw text by the spec's decision
D20), with its own ID; a serializer's error is the only
one, and nothing but `RESULT` is written either way. -/
def Obligations.MessageEncode : Prop :=
  Assigned 0x40 (fun o => .msgEnc o.msg) ∧
  ∀ (s : State), s.inflight = none →
    let answer := fun (i : ID) (body : Except SerializationError Bytes) => match body with
      | .ok bs => okWith (.encoded i bs) s
      | .error e => failedWith .serializationError (.serializationInfo e) s
    (∀ r, exec (.msgEnc (.control r)) s = .next (answer .control (Config.serControl r))) ∧
    (∀ r, exec (.msgEnc (.config r)) s = .next (answer .config (Config.serConfig r))) ∧
    (∀ r, exec (.msgEnc (.status r)) s = .next (answer .status (Config.serStatus r))) ∧
    (∀ i v, exec (.msgEnc (.parsed i v)) s = .next (answer i (Config.jsonSerialize v))) ∧
    (∀ i t, exec (.msgEnc (.unparsed i t)) s = .next (okWith (.encoded i (utf8Encode t)) s))

/-- R198 to R202: the chain tries its stages in strict order and the first that succeeds answers; which
schema an ID selects is the spec's decision D21. -/
def Obligations.MessageDecodeChain : Prop :=
  Assigned 0x41 (fun o => .msgDec o.id o.data) ∧
  ∀ (s : State) (id : ID) (data : Bytes), s.inflight = none →
    let stageA := (jsonParse data).bind fun v =>
      if id = .control then (Config.schemaControl v).map Message.control
      else if id = .config then (Config.schemaConfig v).map Message.config
      else if id = .status then (Config.schemaStatus v).map Message.status
      else none
    let stageB := (jsonParse data).map (Message.parsed id)
    let stageC := (utf8Decode data).map (Message.unparsed id)
    exec (.msgDec id data) s = .next (okWith (.message ((stageA.or stageB).or stageC)) s)

/-- R198's corner case, with the facts R190 states of `JSON_PARSE` (the spec's general knowledge, log 4): an
empty payload is the empty text under every ID, and ill-formed UTF-8 gives nothing. -/
def Obligations.MessageDecodeEmptyAndIllFormed : Prop :=
  ∀ (s : State) (id : ID), s.inflight = none →
    exec (.msgDec id []) s = .next (okWith (.message (some (.unparsed id []))) s) ∧
    ∀ data : Bytes, ¬ Utf8WellFormed data → exec (.msgDec id data) s = .next (okWith (.message none) s)

/-- R196: the text decoder accepts exactly the bytes made of well-formed units, by the table the spec takes
from general knowledge (its decision D24, log 12). -/
def Obligations.Utf8AcceptsExactly : Prop :=
  ∀ data : Bytes, (utf8Decode data).isSome = true ↔ Utf8WellFormed data

/-- R196, R197: a text comes back from its UTF-8 bytes, and accepted bytes are the UTF-8 bytes of their text,
so no byte of a payload is replaced: strictness is the spec's decision D24, the units RFC 3629's (log 12). -/
def Obligations.Utf8RoundTrip : Prop :=
  (∀ t : Text, utf8Decode (utf8Encode t) = some t) ∧
  ∀ (data : Bytes) (t : Text), utf8Decode data = some t → utf8Encode t = data

/-! ## The Connection operations -/

/-- R221: `WRITE data` is `SLICE_SEND` of the template at offset 0 with `CFG_ID`; the template's flags are the
spec's own inference in R220 (and its D18, log 22). In the datagram, push is its decision D16 (log 22). -/
def Obligations.WriteSendsFromTemplate : Prop :=
  Assigned 0x50 (fun o => .write o.data) ∧
  ∀ (s : State) (data : Bytes), s.inflight = none →
    exec (.write data) s = exec (.sliceSend (templateOf s 0 s.cfgId) data) s ∧
    ∃ u, exec (.write data) s = .next u ∧ SendBegins (templateOf s 0 s.cfgId) data s u

/-- R222: `WRITE_OFFSET` is `SLICE_SEND` of the template (R220, the spec's own inference, and its
D18, log 22) at the given offset. In the datagram, push is its decision D16, and that the offset is the
caller's rests on C3 (log 21). -/
def Obligations.WriteOffsetSendsFromTemplate : Prop :=
  Assigned 0x51 (fun o => .writeOffset o.data o.offset) ∧
  ∀ (s : State) (data : Bytes) (offset : U32), s.inflight = none →
    exec (.writeOffset data offset) s = exec (.sliceSend (templateOf s offset s.cfgId) data) s ∧
    ∃ u, exec (.writeOffset data offset) s = .next u ∧ SendBegins (templateOf s offset s.cfgId) data s u

/-- R93: `WRITE data` is the same operation as `WRITE_OFFSET data, 0`. -/
def Obligations.WriteIsWriteOffsetZero : Prop :=
  ∀ (s : State) (data : Bytes), exec (.write data) s = exec (.writeOffset data 0) s

/-- R223, R242: the body and the ID come from the message (its flags and pixel config are the spec's decision
D18, an `Unparsed` body its D20; log 22); a serializer's error ends the command before any datagram, with nothing
but `RESULT` written. In the datagram, push is the spec's decision D16. -/
def Obligations.WriteMessageSendsBody : Prop :=
  Assigned 0x52 (fun o => .writeMessage o.msg) ∧
  ∀ (s : State) (msg : Message), s.inflight = none →
    ∃ u, exec (.writeMessage msg) s = .next u ∧
      match msgBody msg with
      | .error e => u = failedWith .serializationError (.serializationInfo e) s
      | .ok body => SendBegins (templateOf s 0 (msgId msg)) body s u

/-- R224, R243: the head of the queue is removed and returned; an empty queue is an error at once. -/
def Obligations.GetIncomingPopsHead : Prop :=
  Assigned 0x53 (fun _ => .getIncoming) ∧
  ∀ s : State, s.inflight = none →
    (s.inq = [] → exec .getIncoming s = .next (failedWith .emptyQueue .nothing s)) ∧
    ∀ p rest, s.inq = p :: rest → exec .getIncoming s = .next (okWith (.packet p) { s with inq := rest })

/-- R228: a delivery appends the decoded packet to `INQ`, a short datagram as the empty packet (the spec's
decisions D13 and D25; logs 22, 20), and writes nothing else; it may come between two fragments of a write (R37).
That it takes a step of its own, from the head of the input list, is the model's form (log 2). -/
def Obligations.DeliveryAppendsPacket : Prop :=
  ∀ (s : State) (b : Bytes) (rest : List Input), s.inputs = .datagram b :: rest →
    step s = .next { s with inputs := rest, inq := s.inq ++ [(pktDec b).1] } ∧
    (ShortInput b → (pktDec b).1 = { header := DefaultHeader, data := [], parsed := none })

/-- R63: a delivery before a command or between two fragments changes nothing of what they do; the packet is
at the tail of the queue either way. GET_INCOMING is the one command that reads the queue; it too is unchanged
unless the queue was empty. -/
def Obligations.DeliveryDoesNotInterfere : Prop :=
  ∀ (s : State) (p : Packet),
    (∀ i : Instr, i ≠ .getIncoming →
      exec i { s with inq := s.inq ++ [p] } = withPacket p (exec i s)) ∧
    (s.inq ≠ [] → exec .getIncoming { s with inq := s.inq ++ [p] } = withPacket p (exec .getIncoming s)) ∧
    ∀ t : Transfer, sendFragment t { s with inq := s.inq ++ [p] } = withPacket p (sendFragment t s)

/-! ## Commands, errors, steps -/

/-- R89: a few words of the table written out, with the model's zero operands; the numbers are the spec's
decision D1 (log 1). -/
def Obligations.OpcodesDecode : Prop :=
  decodeTableWord 8 0x10 = some (.flagsEnc .zero) ∧ decodeTableWord 8 0x15 = some (.idDec 0) ∧
  decodeTableWord 8 0x22 = some (.pktDec []) ∧ decodeTableWord 8 0x30 = some (.sliceSend .zero []) ∧
  decodeTableWord 8 0x41 = some (.msgDec .reserved []) ∧ decodeTableWord 8 0x51 = some (.writeOffset [] 0) ∧
  decodeTableWord 8 0x53 = some .getIncoming ∧ decodeTableWord 8 0x16 = none ∧
  decodeTableWord 8 0x00 = none ∧ decodeTableWord 8 0xFF = none

/-- R88, R89: what the host presents for an instruction is read as that instruction, with every operand. The
command format is the spec's decision D1, the operand lines the model's (log 1). -/
def Obligations.CommandRoundTrip : Prop := ∀ i : Instr, decode (encode i) = .ok i

/-- R90, R246 (the spec's decision D3, log 22): every unassigned opcode, 240 of them, ends with `ILLEGAL_COMMAND`
and the opcode, and writes no state but `RESULT`, whatever the operand lines hold (log 1). The command is taken
from the head of the model's input list (log 2). -/
def Obligations.UnassignedOpcodesIllegal : Prop :=
  ((List.range 256).filter (fun n => decide (BitVec.ofNat 8 n ∉ assignedOpcodes))).length = 240 ∧
  ∀ (s : State) (op : Byte) (o : Operands) (rest : List Input), op ∉ assignedOpcodes →
    s.inflight = none → s.inputs = .command { op := op, operands := o } :: rest →
    step s = .next (failedWith .illegalCommand (.opcodeInfo op) { s with inputs := rest })

/-- R35, R94: a presented command is run as the instruction its decoding gives. The command port is the spec's
decision D1 (log 1); that the step takes the command from the head of the input list is the model's form
(log 2). -/
def Obligations.StepRunsDecodedCommand : Prop :=
  ∀ (s : State) (c : Command) (i : Instr) (rest : List Input),
    s.inflight = none → s.inputs = .command c :: rest → decode c = .ok i →
    step s = exec i { s with inputs := rest }

/-- R258: while idle with no command presented a step changes nothing (but uses up the environment's
pause). That the block has no power states is the spec's decision D36 (log 22); the input list is the model's own
(log 2). -/
def Obligations.IdleStepHoldsState : Prop :=
  ∀ s : State, s.inflight = none →
    (s.inputs = [] → step s = .next s) ∧
    ∀ rest, s.inputs = .quiet :: rest → step s = .next { s with inputs := rest }

/-- R35, R274: a command is not admitted while a write is in progress; that it is REFUSED is the model's form
of the spec's precondition (I20, log 14). -/
def Obligations.SecondCommandRefused : Prop :=
  ∀ (s : State) (t : Transfer) (i : Instr), s.inflight = some t → exec i s = .refused .commandInProgress

/-- R253, R282: with no write in progress every command completes its step: none faults, none is refused. One
mode is the spec's decision D6 (log 22), that every `Transmit` returns its decision D26 (log 19), and that no
offset faults its decision D17 (log 11). -/
def Obligations.EveryCommandCompletes : Prop :=
  ∀ (s : State) (i : Instr), s.inflight = none → ∃ u, exec i s = .next u

/-- R247: the six decoders end `OK` whatever the bytes, and a delivery completes from every state, with a write
in progress or not and whatever input comes after it, with `RESULT` as it was. The input list that holds the
delivery is the model's own (log 2). -/
def Obligations.DecodersNeverRaise : Prop :=
  (∀ (s : State) (b : Byte) (id : ID) (data : Bytes), s.inflight = none →
    ∀ i ∈ [Instr.flagsDec b, .pixcfgDec b, .idDec b, .hdrDec data, .pktDec data, .msgDec id data],
      ∃ v, exec i s = .next (okWith v s)) ∧
  ∀ (s : State) (data : Bytes) (rest : List Input), s.inputs = .datagram data :: rest →
    ∃ u, step s = .next u ∧ u.result = s.result

/-- R240: the status codes (the numbering is the spec's decision D2). -/
def Obligations.StatusCodeTable : Prop :=
  statusCode .ok = 0x00 ∧ statusCode .transportError = 0x01 ∧ statusCode .serializationError = 0x02 ∧
  statusCode .emptyQueue = 0x03 ∧ statusCode .illegalCommand = 0x04 ∧
  statusCode .addressResolutionError = 0x05

/-! ## Frames and whole-machine rules -/

/-- R56: a codec command that completes has written `RESULT` and no other state. -/
def Obligations.CodecsWriteOnlyResult : Prop :=
  ∀ (s u : State) (i : Instr), Codec i = true → exec i s = .next u → u = { s with result := u.result }

/-- R226, R173: what a sending command leaves: the configuration, the queue and the ready inputs unchanged;
`SENDBUF` from the end of the first datagram on unchanged (R27, by the spec's decision D30; log 22), all of it
where nothing is sent. -/
def Obligations.SendsFrame : Prop :=
  ∀ (s u : State) (i : Instr), Sends i = true → exec i s = .next u →
    u.cfgDest = s.cfgDest ∧ u.cfgPixcfg = s.cfgPixcfg ∧ u.cfgId = s.cfgId ∧ u.inq = s.inq ∧
    u.inputs = s.inputs ∧
    match payloadOf s i with
    | none => u = { s with result := u.result }
    | some (hdr, data) =>
      (data = [] → u = { s with result := u.result }) ∧
      ∀ a, (if hdr.packetType.timecode then 14 else 10) + min 1440 data.length ≤ a →
        sendbufByte u.sendbuf a = sendbufByte s.sendbuf a

/-- R226: GET_INCOMING changes only `INQ` and `RESULT`. -/
def Obligations.GetIncomingFrame : Prop :=
  ∀ s u : State, exec .getIncoming s = .next u → u = { s with inq := u.inq, result := u.result }

/-- R67, R27: nothing reads `SENDBUF` back: whatever it held, a command, each later fragment of a write, and
every step does and sends the same, with no difference but in `SENDBUF`. R27's clause is the spec's decision D30
(log 22). -/
def Obligations.StaleSendbufNeverSent : Prop :=
  ∀ (s u : State) (m : Memory),
    (∀ i : Instr, exec i s = .next u →
      ∃ m', exec i { s with sendbuf := m } = .next { u with sendbuf := m' }) ∧
    (∀ t : Transfer, sendFragment t s = .next u →
      ∃ m', sendFragment t { s with sendbuf := m } = .next { u with sendbuf := m' }) ∧
    (step s = .next u → ∃ m', step { s with sendbuf := m } = .next { u with sendbuf := m' })

/-- R272, R23 to R25: no step changes a configuration element. That CFG_PIXCFG and CFG_ID are never written is
the spec's decision D19, and that there is no reset but construction its decision D37 (log 22). -/
def Obligations.ConfigurationNeverWritten : Prop :=
  ∀ s u : State, step s = .next u →
    u.cfgDest = s.cfgDest ∧ u.cfgPixcfg = s.cfgPixcfg ∧ u.cfgId = s.cfgId

/-- R36, R29, R23: a step only ever adds to the history of datagrams, at most one entry, which went to
`CFG_DEST`. The history is the spec's decision D26 (logs 19, 27). -/
def Obligations.HistoryOnlyGrows : Prop :=
  ∀ s u : State, step s = .next u →
    u.txlog = s.txlog ∨ ∃ e, u.txlog = s.txlog ++ [e] ∧ e.dest = s.cfgDest

/-- No step of the machine faults or is refused, from any state. Nothing is written or handed over beyond
`SENDBUF` (R57), since every datagram fits (R173, R7, with the size of the spec's decision D29, log 22); no
offset faults (R178, by its decision D17, log 11); no second command meets a write in progress, since a command
the host holds ready waits (R35; logs 2, 14). -/
def Obligations.StepAlwaysAnswersNext : Prop := ∀ s : State, ∃ u, step s = .next u

/-- The invariant of the block is kept by every step, from every state that has it: R26 (`SEQ`), R27
(`SENDBUF`; its size is the spec's decision D29), R23, R29, R81, R86 (`TXLOG`), R32 (a write in progress; one
fragment a step is log 13), R240 (`RESULT`). A queued packet is one that R141 to R148 and R199 build: its version
is not 0 by the spec's decision D7 (R111, log 9), its header consistent by its D15 and the default one by its D13,
its message tagged with the header's ID by its D21 (log 22). -/
def Obligations.StepKeepsInvariant : Prop := ∀ s u : State, s.Inv → step s = .next u → u.Inv

/-- R270, R271: the invariant holds after a successful construction with any arguments, and at reset. `SENDBUF`'s
size is the spec's decision D29 (log 22), its content any (log 7). -/
def Obligations.InvariantAfterConstruction : Prop :=
  State.reset.Inv ∧ ∀ (a : Address) (content : Nat → Byte) (p : PixelConfig) (i : ID) (s : State),
    construct (some a) content p i = .created s → s.Inv

/-- R270, R271, R244: what construction leaves, element by element, and that an unresolvable destination
leaves no instance. `SENDBUF` has its bytes, whatever they are: every string of 1500 bytes is the content some
draw leaves (I24, log 7). The arguments are the spec's decision D19 (log 22). -/
def Obligations.ConstructionState : Prop :=
  (∀ (content : Nat → Byte) (p : PixelConfig) (i : ID),
    construct none content p i = .failed .addressResolutionError) ∧
  (∀ (a : Address) (content : Nat → Byte) (p : PixelConfig) (i : ID), ∃ s,
    construct (some a) content p i = .created s ∧
    s.cfgDest = a ∧ s.cfgPixcfg = p ∧ s.cfgId = i ∧ s.seq = 1 ∧
    (∀ k, sendbufByte s.sendbuf k = if k < 1500 then some (content k) else none) ∧
    s.inq = [] ∧ s.result = none ∧ s.txlog = [] ∧ s.inflight = none) ∧
  ∀ (a : Address) (p : PixelConfig) (i : ID) (buf : Bytes), buf.length = 1500 →
    ∃ (content : Nat → Byte) (s : State), construct (some a) content p i = .created s ∧ s.sendbuf = buf

/-- R271, R24, R25: the state at reset has the default arguments of construction; its pixel config has the
wire byte 0x0D and its ID the byte 0x01. The destination is the model's choice (log 8) and `SENDBUF`'s content a
free value (log 7); nothing is stated of them. The default arguments are the spec's decision D19 (log 22). -/
def Obligations.ResetState : Prop :=
  construct (some State.reset.cfgDest) Config.sendbufContent = .created State.reset ∧
  pixcfgEnc State.reset.cfgPixcfg = 0x0D ∧ State.reset.cfgPixcfg =
    { dataType := .rgb, dataSize := .bits24, customerDefined := false } ∧
  idEnc State.reset.cfgId = 0x01 ∧ State.reset.cfgId = .default ∧ State.reset.seq = 1 ∧
  State.reset.inq = [] ∧ State.reset.result = none ∧ State.reset.txlog = []
end

