-- ==== Sys2Proof/Laws/Memory.lean ====
section
/-! SUPPORT. The laws of `SENDBUF`: its content at construction, what a write leaves at each index, that it
keeps the size, what a range read gives, and what a datagram laid over the start of the buffer leaves. -/

namespace Sys2Proof.Machine

@[simp] theorem contentFrom_length (content : Nat → Byte) (a n : Nat) :
    (contentFrom content a n).length = n := by
  induction n generalizing a with
  | zero => rfl
  | succ n ih => simp [contentFrom, ih]

theorem contentFrom_getElem? (content : Nat → Byte) (a n i : Nat) :
    (contentFrom content a n)[i]? = if i < n then some (content (a + i)) else none := by
  induction n generalizing a i with
  | zero => rfl
  | succ n ih =>
    cases i with
    | zero => simp [contentFrom]
    | succ i => simp [contentFrom, ih, Nat.add_assoc, Nat.add_comm 1 i]

/-- Every string of bytes is the content that some draw gives. -/
theorem contentFrom_getD (m : Memory) : contentFrom (fun i => m.getD i 0) 0 m.length = m := by
  apply List.ext_getElem?
  intro i
  rw [contentFrom_getElem?]
  split
  · rename_i h
    simp [List.getElem?_eq_getElem h]
  · rename_i h
    rw [List.getElem?_eq_none (by omega)]

@[simp] theorem memory_wf_iff (m : Memory) : Memory.wf m = true ↔ m.length = sendbufSize := by
  simp [Memory.wf]

/-- The buffer after construction has its size and holds the drawn byte at every index. -/
theorem fresh_sendbuf_wf (dest : Address) (content : Nat → Byte) (pixcfg : PixelConfig) (id : ID) :
    Memory.wf (State.fresh dest content pixcfg id).sendbuf = true := by
  simp [State.fresh]

theorem memWrite_fits (addr : Nat) (v : Bytes) (m : Memory) (h : addr + v.length ≤ sendbufSize) :
    memWrite addr v m = some (m.take addr ++ v ++ m.drop (addr + v.length)) := if_pos h

theorem memWrite_beyond (addr : Nat) (v : Bytes) (m : Memory) (h : sendbufSize < addr + v.length) :
    memWrite addr v m = none := if_neg (by omega)

/-- A write inside the buffer sets the bytes it covers and leaves every other byte. -/
theorem sendbufByte_memWrite {addr : Nat} {v : Bytes} {m m' : Memory} (h : memWrite addr v m = some m')
    (ha : addr ≤ m.length) (a : Nat) :
    sendbufByte m' a = if addr ≤ a ∧ a < addr + v.length then v[a - addr]? else sendbufByte m a := by
  obtain ⟨-, h⟩ := Option.ite_none_right_eq_some.1 h
  cases h
  have hl : (m.take addr).length = addr := by simp [ha]
  simp only [sendbufByte, List.append_assoc]
  rcases Nat.lt_or_ge a addr with h1 | h1
  · rw [List.getElem?_append_left (by omega), List.getElem?_take, if_pos h1, if_neg (by omega)]
  · rw [List.getElem?_append_right (by omega), hl]
    rcases Nat.lt_or_ge (a - addr) v.length with h2 | h2
    · rw [List.getElem?_append_left h2, if_pos (by omega)]
    · rw [List.getElem?_append_right h2, List.getElem?_drop, if_neg (by omega)]
      congr 1
      omega

/-- A write keeps the size of the buffer. -/
theorem memWrite_wf {addr : Nat} {v : Bytes} {m m' : Memory} (h : memWrite addr v m = some m')
    (hm : Memory.wf m = true) : Memory.wf m' = true := by
  obtain ⟨hf, h⟩ := Option.ite_none_right_eq_some.1 h
  cases h
  rw [memory_wf_iff] at hm ⊢
  simp only [List.length_append, List.length_take, List.length_drop]
  omega

/-- A datagram that stands at the start of the buffer is what a range read of its length gives. -/
theorem sendbufRange_append (d m : Bytes) (h : d.length ≤ sendbufSize) :
    sendbufRange (d ++ m) 0 d.length = some d := by
  simp [sendbufRange, h]

/-- A datagram laid over the start of the buffer: its bytes, and every byte behind them as before. -/
theorem sendbufByte_overlay (d : Bytes) (m : Memory) (a : Nat) :
    sendbufByte (d ++ m.drop d.length) a = if a < d.length then d[a]? else sendbufByte m a := by
  unfold sendbufByte
  split
  · rename_i h
    exact List.getElem?_append_left h
  · rename_i h
    rw [List.getElem?_append_right (by omega), List.getElem?_drop]
    congr 1
    omega

theorem overlay_wf {d : Bytes} {m : Memory} (h : d.length ≤ sendbufSize) (hm : Memory.wf m = true) :
    Memory.wf (d ++ m.drop d.length) = true := by
  rw [memory_wf_iff] at hm ⊢
  simp only [List.length_append, List.length_drop]
  omega

end Sys2Proof.Machine
end

