-- ==== Sys2Proof/Laws/State.lean ====
section
/-! SUPPORT. What each update of the state leaves in each field: one lemma per field per update, so that no
later proof unfolds a record update. -/

namespace Sys2Proof.Machine

@[simp] theorem State.setSeq_cfgDest (s : State) (v : BitVec 4) : (s.setSeq v).cfgDest = s.cfgDest := rfl
@[simp] theorem State.setSeq_cfgPixcfg (s : State) (v : BitVec 4) : (s.setSeq v).cfgPixcfg = s.cfgPixcfg := rfl
@[simp] theorem State.setSeq_cfgId (s : State) (v : BitVec 4) : (s.setSeq v).cfgId = s.cfgId := rfl
@[simp] theorem State.setSeq_seq (s : State) (v : BitVec 4) : (s.setSeq v).seq = v := rfl
@[simp] theorem State.setSeq_sendbuf (s : State) (v : BitVec 4) : (s.setSeq v).sendbuf = s.sendbuf := rfl
@[simp] theorem State.setSeq_inq (s : State) (v : BitVec 4) : (s.setSeq v).inq = s.inq := rfl
@[simp] theorem State.setSeq_result (s : State) (v : BitVec 4) : (s.setSeq v).result = s.result := rfl
@[simp] theorem State.setSeq_txlog (s : State) (v : BitVec 4) : (s.setSeq v).txlog = s.txlog := rfl
@[simp] theorem State.setSeq_inflight (s : State) (v : BitVec 4) : (s.setSeq v).inflight = s.inflight := rfl
@[simp] theorem State.setSeq_inputs (s : State) (v : BitVec 4) : (s.setSeq v).inputs = s.inputs := rfl
@[simp] theorem State.setSeq_txScript (s : State) (v : BitVec 4) : (s.setSeq v).txScript = s.txScript := rfl

@[simp] theorem State.setSendbuf_cfgDest (s : State) (v : Memory) : (s.setSendbuf v).cfgDest = s.cfgDest := rfl
@[simp] theorem State.setSendbuf_cfgPixcfg (s : State) (v : Memory) : (s.setSendbuf v).cfgPixcfg = s.cfgPixcfg := rfl
@[simp] theorem State.setSendbuf_cfgId (s : State) (v : Memory) : (s.setSendbuf v).cfgId = s.cfgId := rfl
@[simp] theorem State.setSendbuf_seq (s : State) (v : Memory) : (s.setSendbuf v).seq = s.seq := rfl
@[simp] theorem State.setSendbuf_sendbuf (s : State) (v : Memory) : (s.setSendbuf v).sendbuf = v := rfl
@[simp] theorem State.setSendbuf_inq (s : State) (v : Memory) : (s.setSendbuf v).inq = s.inq := rfl
@[simp] theorem State.setSendbuf_result (s : State) (v : Memory) : (s.setSendbuf v).result = s.result := rfl
@[simp] theorem State.setSendbuf_txlog (s : State) (v : Memory) : (s.setSendbuf v).txlog = s.txlog := rfl
@[simp] theorem State.setSendbuf_inflight (s : State) (v : Memory) : (s.setSendbuf v).inflight = s.inflight := rfl
@[simp] theorem State.setSendbuf_inputs (s : State) (v : Memory) : (s.setSendbuf v).inputs = s.inputs := rfl
@[simp] theorem State.setSendbuf_txScript (s : State) (v : Memory) : (s.setSendbuf v).txScript = s.txScript := rfl

@[simp] theorem State.setInq_cfgDest (s : State) (v : List Packet) : (s.setInq v).cfgDest = s.cfgDest := rfl
@[simp] theorem State.setInq_cfgPixcfg (s : State) (v : List Packet) : (s.setInq v).cfgPixcfg = s.cfgPixcfg := rfl
@[simp] theorem State.setInq_cfgId (s : State) (v : List Packet) : (s.setInq v).cfgId = s.cfgId := rfl
@[simp] theorem State.setInq_seq (s : State) (v : List Packet) : (s.setInq v).seq = s.seq := rfl
@[simp] theorem State.setInq_sendbuf (s : State) (v : List Packet) : (s.setInq v).sendbuf = s.sendbuf := rfl
@[simp] theorem State.setInq_inq (s : State) (v : List Packet) : (s.setInq v).inq = v := rfl
@[simp] theorem State.setInq_result (s : State) (v : List Packet) : (s.setInq v).result = s.result := rfl
@[simp] theorem State.setInq_txlog (s : State) (v : List Packet) : (s.setInq v).txlog = s.txlog := rfl
@[simp] theorem State.setInq_inflight (s : State) (v : List Packet) : (s.setInq v).inflight = s.inflight := rfl
@[simp] theorem State.setInq_inputs (s : State) (v : List Packet) : (s.setInq v).inputs = s.inputs := rfl
@[simp] theorem State.setInq_txScript (s : State) (v : List Packet) : (s.setInq v).txScript = s.txScript := rfl

@[simp] theorem State.setResult_cfgDest (s : State) (v : Option Result) : (s.setResult v).cfgDest = s.cfgDest := rfl
@[simp] theorem State.setResult_cfgPixcfg (s : State) (v : Option Result) : (s.setResult v).cfgPixcfg = s.cfgPixcfg := rfl
@[simp] theorem State.setResult_cfgId (s : State) (v : Option Result) : (s.setResult v).cfgId = s.cfgId := rfl
@[simp] theorem State.setResult_seq (s : State) (v : Option Result) : (s.setResult v).seq = s.seq := rfl
@[simp] theorem State.setResult_sendbuf (s : State) (v : Option Result) : (s.setResult v).sendbuf = s.sendbuf := rfl
@[simp] theorem State.setResult_inq (s : State) (v : Option Result) : (s.setResult v).inq = s.inq := rfl
@[simp] theorem State.setResult_result (s : State) (v : Option Result) : (s.setResult v).result = v := rfl
@[simp] theorem State.setResult_txlog (s : State) (v : Option Result) : (s.setResult v).txlog = s.txlog := rfl
@[simp] theorem State.setResult_inflight (s : State) (v : Option Result) : (s.setResult v).inflight = s.inflight := rfl
@[simp] theorem State.setResult_inputs (s : State) (v : Option Result) : (s.setResult v).inputs = s.inputs := rfl
@[simp] theorem State.setResult_txScript (s : State) (v : Option Result) : (s.setResult v).txScript = s.txScript := rfl

@[simp] theorem State.setTxlog_cfgDest (s : State) (v : List TxEntry) : (s.setTxlog v).cfgDest = s.cfgDest := rfl
@[simp] theorem State.setTxlog_cfgPixcfg (s : State) (v : List TxEntry) : (s.setTxlog v).cfgPixcfg = s.cfgPixcfg := rfl
@[simp] theorem State.setTxlog_cfgId (s : State) (v : List TxEntry) : (s.setTxlog v).cfgId = s.cfgId := rfl
@[simp] theorem State.setTxlog_seq (s : State) (v : List TxEntry) : (s.setTxlog v).seq = s.seq := rfl
@[simp] theorem State.setTxlog_sendbuf (s : State) (v : List TxEntry) : (s.setTxlog v).sendbuf = s.sendbuf := rfl
@[simp] theorem State.setTxlog_inq (s : State) (v : List TxEntry) : (s.setTxlog v).inq = s.inq := rfl
@[simp] theorem State.setTxlog_result (s : State) (v : List TxEntry) : (s.setTxlog v).result = s.result := rfl
@[simp] theorem State.setTxlog_txlog (s : State) (v : List TxEntry) : (s.setTxlog v).txlog = v := rfl
@[simp] theorem State.setTxlog_inflight (s : State) (v : List TxEntry) : (s.setTxlog v).inflight = s.inflight := rfl
@[simp] theorem State.setTxlog_inputs (s : State) (v : List TxEntry) : (s.setTxlog v).inputs = s.inputs := rfl
@[simp] theorem State.setTxlog_txScript (s : State) (v : List TxEntry) : (s.setTxlog v).txScript = s.txScript := rfl

@[simp] theorem State.setInflight_cfgDest (s : State) (v : Option Transfer) : (s.setInflight v).cfgDest = s.cfgDest := rfl
@[simp] theorem State.setInflight_cfgPixcfg (s : State) (v : Option Transfer) : (s.setInflight v).cfgPixcfg = s.cfgPixcfg := rfl
@[simp] theorem State.setInflight_cfgId (s : State) (v : Option Transfer) : (s.setInflight v).cfgId = s.cfgId := rfl
@[simp] theorem State.setInflight_seq (s : State) (v : Option Transfer) : (s.setInflight v).seq = s.seq := rfl
@[simp] theorem State.setInflight_sendbuf (s : State) (v : Option Transfer) : (s.setInflight v).sendbuf = s.sendbuf := rfl
@[simp] theorem State.setInflight_inq (s : State) (v : Option Transfer) : (s.setInflight v).inq = s.inq := rfl
@[simp] theorem State.setInflight_result (s : State) (v : Option Transfer) : (s.setInflight v).result = s.result := rfl
@[simp] theorem State.setInflight_txlog (s : State) (v : Option Transfer) : (s.setInflight v).txlog = s.txlog := rfl
@[simp] theorem State.setInflight_inflight (s : State) (v : Option Transfer) : (s.setInflight v).inflight = v := rfl
@[simp] theorem State.setInflight_inputs (s : State) (v : Option Transfer) : (s.setInflight v).inputs = s.inputs := rfl
@[simp] theorem State.setInflight_txScript (s : State) (v : Option Transfer) : (s.setInflight v).txScript = s.txScript := rfl

@[simp] theorem State.setInputs_cfgDest (s : State) (v : List Input) : (s.setInputs v).cfgDest = s.cfgDest := rfl
@[simp] theorem State.setInputs_cfgPixcfg (s : State) (v : List Input) : (s.setInputs v).cfgPixcfg = s.cfgPixcfg := rfl
@[simp] theorem State.setInputs_cfgId (s : State) (v : List Input) : (s.setInputs v).cfgId = s.cfgId := rfl
@[simp] theorem State.setInputs_seq (s : State) (v : List Input) : (s.setInputs v).seq = s.seq := rfl
@[simp] theorem State.setInputs_sendbuf (s : State) (v : List Input) : (s.setInputs v).sendbuf = s.sendbuf := rfl
@[simp] theorem State.setInputs_inq (s : State) (v : List Input) : (s.setInputs v).inq = s.inq := rfl
@[simp] theorem State.setInputs_result (s : State) (v : List Input) : (s.setInputs v).result = s.result := rfl
@[simp] theorem State.setInputs_txlog (s : State) (v : List Input) : (s.setInputs v).txlog = s.txlog := rfl
@[simp] theorem State.setInputs_inflight (s : State) (v : List Input) : (s.setInputs v).inflight = s.inflight := rfl
@[simp] theorem State.setInputs_inputs (s : State) (v : List Input) : (s.setInputs v).inputs = v := rfl
@[simp] theorem State.setInputs_txScript (s : State) (v : List Input) : (s.setInputs v).txScript = s.txScript := rfl

@[simp] theorem State.setTxScript_cfgDest (s : State) (v : List TxOutcome) : (s.setTxScript v).cfgDest = s.cfgDest := rfl
@[simp] theorem State.setTxScript_cfgPixcfg (s : State) (v : List TxOutcome) : (s.setTxScript v).cfgPixcfg = s.cfgPixcfg := rfl
@[simp] theorem State.setTxScript_cfgId (s : State) (v : List TxOutcome) : (s.setTxScript v).cfgId = s.cfgId := rfl
@[simp] theorem State.setTxScript_seq (s : State) (v : List TxOutcome) : (s.setTxScript v).seq = s.seq := rfl
@[simp] theorem State.setTxScript_sendbuf (s : State) (v : List TxOutcome) : (s.setTxScript v).sendbuf = s.sendbuf := rfl
@[simp] theorem State.setTxScript_inq (s : State) (v : List TxOutcome) : (s.setTxScript v).inq = s.inq := rfl
@[simp] theorem State.setTxScript_result (s : State) (v : List TxOutcome) : (s.setTxScript v).result = s.result := rfl
@[simp] theorem State.setTxScript_txlog (s : State) (v : List TxOutcome) : (s.setTxScript v).txlog = s.txlog := rfl
@[simp] theorem State.setTxScript_inflight (s : State) (v : List TxOutcome) : (s.setTxScript v).inflight = s.inflight := rfl
@[simp] theorem State.setTxScript_inputs (s : State) (v : List TxOutcome) : (s.setTxScript v).inputs = s.inputs := rfl
@[simp] theorem State.setTxScript_txScript (s : State) (v : List TxOutcome) : (s.setTxScript v).txScript = v := rfl

/-- Writing back the value a field holds changes nothing. -/
theorem State.setInflight_self (s : State) (v : Option Transfer) (h : s.inflight = v) :
    s.setInflight v = s := by
  subst h
  rfl

end Sys2Proof.Machine
end

