-- ==== Sys2Proof/Laws/Ops.lean ====
section
/-! SUPPORT. One law for each shared operation, saying everything it can do: ending a command, the
single-writer rule, assembling and transmitting a datagram, one fragment, beginning a send. -/

namespace Sys2Proof.Machine

theorem whenIdle_idle {s : State} (h : s.inflight = none) (k : Outcome) : whenIdle s k = k := by
  simp [whenIdle, h]

theorem whenIdle_busy {s : State} {t : Transfer} (h : s.inflight = some t) (k : Outcome) :
    whenIdle s k = .refused .commandInProgress := by
  simp [whenIdle, h]

/-- Ending a command while none is in progress writes `RESULT` and nothing else. -/
theorem finish_idle {s : State} (h : s.inflight = none) (st : Status) (v : Value) :
    finish st v s = { s with result := some { status := st, value := v } } := by
  rw [finish, State.setInflight_self s none h]
  rfl

@[simp] theorem finish_inflight (st : Status) (v : Value) (s : State) : (finish st v s).inflight = none := rfl
@[simp] theorem finish_result (st : Status) (v : Value) (s : State) :
    (finish st v s).result = some { status := st, value := v } := rfl
@[simp] theorem finish_cfgDest (st : Status) (v : Value) (s : State) : (finish st v s).cfgDest = s.cfgDest := rfl
@[simp] theorem finish_cfgPixcfg (st : Status) (v : Value) (s : State) :
    (finish st v s).cfgPixcfg = s.cfgPixcfg := rfl
@[simp] theorem finish_cfgId (st : Status) (v : Value) (s : State) : (finish st v s).cfgId = s.cfgId := rfl
@[simp] theorem finish_seq (st : Status) (v : Value) (s : State) : (finish st v s).seq = s.seq := rfl
@[simp] theorem finish_sendbuf (st : Status) (v : Value) (s : State) : (finish st v s).sendbuf = s.sendbuf := rfl
@[simp] theorem finish_inq (st : Status) (v : Value) (s : State) : (finish st v s).inq = s.inq := rfl
@[simp] theorem finish_txlog (st : Status) (v : Value) (s : State) : (finish st v s).txlog = s.txlog := rfl
@[simp] theorem finish_inputs (st : Status) (v : Value) (s : State) : (finish st v s).inputs = s.inputs := rfl
@[simp] theorem finish_txScript (st : Status) (v : Value) (s : State) :
    (finish st v s).txScript = s.txScript := rfl

@[simp] theorem logTransmit_inflight (bs : Bytes) (o : TxOutcome) (s : State) :
    (logTransmit bs o s).inflight = s.inflight := rfl
@[simp] theorem logTransmit_result (bs : Bytes) (o : TxOutcome) (s : State) :
    (logTransmit bs o s).result = s.result := rfl
@[simp] theorem logTransmit_cfgDest (bs : Bytes) (o : TxOutcome) (s : State) :
    (logTransmit bs o s).cfgDest = s.cfgDest := rfl
@[simp] theorem logTransmit_cfgPixcfg (bs : Bytes) (o : TxOutcome) (s : State) :
    (logTransmit bs o s).cfgPixcfg = s.cfgPixcfg := rfl
@[simp] theorem logTransmit_cfgId (bs : Bytes) (o : TxOutcome) (s : State) :
    (logTransmit bs o s).cfgId = s.cfgId := rfl
@[simp] theorem logTransmit_seq (bs : Bytes) (o : TxOutcome) (s : State) :
    (logTransmit bs o s).seq = s.seq := rfl
@[simp] theorem logTransmit_sendbuf (bs : Bytes) (o : TxOutcome) (s : State) :
    (logTransmit bs o s).sendbuf = s.sendbuf := rfl
@[simp] theorem logTransmit_inq (bs : Bytes) (o : TxOutcome) (s : State) :
    (logTransmit bs o s).inq = s.inq := rfl
@[simp] theorem logTransmit_inputs (bs : Bytes) (o : TxOutcome) (s : State) :
    (logTransmit bs o s).inputs = s.inputs := rfl
@[simp] theorem logTransmit_txlog (bs : Bytes) (o : TxOutcome) (s : State) :
    (logTransmit bs o s).txlog = s.txlog ++ [{ dest := s.cfgDest, bytes := bs, outcome := o }] := rfl
@[simp] theorem logTransmit_txScript (bs : Bytes) (o : TxOutcome) (s : State) :
    (logTransmit bs o s).txScript = s.txScript.tail := rfl

@[simp] theorem nextOutcome_setSendbuf (s : State) (m : Memory) :
    nextOutcome (s.setSendbuf m) = nextOutcome s := rfl

theorem transmit_eq {s : State} {bs : Bytes} (h : sendbufRange s.sendbuf 0 bs.length = some bs) :
    transmit bs.length s = .ok (nextOutcome s, logTransmit bs (nextOutcome s) s) := by
  simp [transmit, h]

theorem hdrEnc_length (h : Header) : (hdrEnc h).length = headerLength h.packetType := by
  cases ht : h.packetType.timecode <;>
    simp [hdrEnc, headerLength, timecodeBytes, be32, be16, ht, hdrLenTc, hdrLenBase]

theorem hdrEnc_length_le (h : Header) : (hdrEnc h).length ≤ 14 := by
  rw [hdrEnc_length]
  unfold headerLength hdrLenTc hdrLenBase
  split <;> omega

theorem chunkOf_eq (data : Bytes) (k : Nat) : chunkOf data k = (data.drop (k * 1440)).take 1440 := by
  rw [chunkOf, memRead, maxChunk, ← List.length_drop, List.take_eq_take_iff]
  omega

theorem chunkOf_length (data : Bytes) (k : Nat) :
    (chunkOf data k).length = min 1440 (data.length - k * 1440) := by
  simp [chunkOf_eq]

/-- Under this hardware's `OFFSET_OVERFLOW = WRAP` an offset is always found, modulo `2^32`. -/
theorem chunkOffset_wrap (base : U32) (k : Nat) :
    chunkOffset offsetOverflow base k = some (base + BitVec.ofNat 32 (k * 1440)) := by
  have h : BitVec.ofNat 32 (base.toNat + k * 1440) = base + BitVec.ofNat 32 (k * 1440) := by
    rw [BitVec.ofNat_add, BitVec.ofNat_toNat, BitVec.setWidth_eq]
  simp [chunkOffset, offsetOverflow, maxChunk, h]

/-- Assembling a header and a chunk that fit: the datagram stands at index 0, every byte behind it is as
before. -/
theorem assemble_eq {hb c : Bytes} (m : Memory) (hfit : (hb ++ c).length ≤ sendbufSize) :
    assemble hb c m = some ((hb ++ c) ++ m.drop (hb ++ c).length) := by
  rw [List.length_append] at hfit
  rw [assemble, memWrite_fits 0 hb m (by omega)]
  simp [memWrite_fits _ _ _ hfit, List.drop_append]

/-- The datagram of a fragment fits the buffer. -/
theorem fragment_fits (h : Header) (data : Bytes) (k : Nat) :
    (hdrEnc h ++ chunkOf data k).length ≤ sendbufSize := by
  have h1 := hdrEnc_length_le h
  have h2 := chunkOf_length data k
  rw [List.length_append]
  unfold sendbufSize
  omega

/-- Everything one fragment can do: its datagram is laid over the start of `SENDBUF`, handed over and
recorded; then the outcome decides. It never faults. -/
theorem sendFragment_spec (t : Transfer) (s : State) :
    ∃ h d, fragmentHeader t s.seq = some h ∧ d = hdrEnc h ++ chunkOf t.data t.k ∧ d.length ≤ sendbufSize ∧
      sendFragment t s =
        match nextOutcome s with
        | .err e => raise .transportError (.transportInfo e)
            (logTransmit d (.err e) (s.setSendbuf (d ++ s.sendbuf.drop d.length)))
        | .ok => fragmentSent t d.length
            (logTransmit d .ok (s.setSendbuf (d ++ s.sendbuf.drop d.length))) := by
  obtain ⟨h, hh⟩ : ∃ h, fragmentHeader t s.seq = some h := by
    simp [fragmentHeader, chunkOffset_wrap]
  have hfit := fragment_fits h t.data t.k
  refine ⟨h, _, hh, rfl, hfit, ?_⟩
  have hr := sendbufRange_append _ (s.sendbuf.drop (hdrEnc h ++ chunkOf t.data t.k).length) hfit
  have ht := transmit_eq (s := s.setSendbuf (_ ++ s.sendbuf.drop _)) hr
  simp only [sendFragment, hh, assemble_eq s.sendbuf hfit, ← List.length_append, ht, nextOutcome_setSendbuf]
  cases nextOutcome s <;> rfl

/-- A fragment always answers a next state. -/
theorem sendFragment_next (t : Transfer) (s : State) : ∃ u, sendFragment t s = .next u := by
  obtain ⟨h, d, -, -, -, hs⟩ := sendFragment_spec t s
  rw [hs]
  cases nextOutcome s with
  | err e => exact ⟨_, rfl⟩
  | ok =>
    simp only [fragmentSent]
    split <;> exact ⟨_, rfl⟩

/-- Beginning a send always answers a next state. -/
theorem sliceSend_next (hdr : Header) (data : Bytes) (s : State) : ∃ u, sliceSend hdr data s = .next u := by
  unfold sliceSend
  split
  · exact ⟨_, rfl⟩
  · exact sendFragment_next _ _

end Sys2Proof.Machine
end

