-- ==== Sys2Proof/Laws/Codec.lean ====
section
/-! SUPPORT. Bytes and words: the big-endian codecs as arithmetic, slices as indexed bytes, what a short input
is, and the encoder and decoder of words undoing each other at their place in a string. -/

namespace Sys2Proof.Machine

theorem be32_eq (v : U32) :
    be32 v = [BitVec.ofNat 8 (v.toNat / 2 ^ 24), BitVec.ofNat 8 (v.toNat / 2 ^ 16),
      BitVec.ofNat 8 (v.toNat / 2 ^ 8), BitVec.ofNat 8 v.toNat] := by
  simp [be32, BitVec.extractLsb', Nat.shiftRight_eq_div_pow]

theorem be16_eq (v : U16) : be16 v = [BitVec.ofNat 8 (v.toNat / 2 ^ 8), BitVec.ofNat 8 v.toNat] := by
  simp [be16, BitVec.extractLsb', Nat.shiftRight_eq_div_pow]

@[simp] theorem be32_length (v : U32) : (be32 v).length = 4 := rfl
@[simp] theorem be16_length (v : U16) : (be16 v).length = 2 := rfl

theorem shifted_or (a b n : Nat) (h : b < 2 ^ n) : (a * 2 ^ n) ||| b = a * 2 ^ n + b := by
  rw [← Nat.shiftLeft_eq, Nat.shiftLeft_add_eq_or_of_lt h]

theorem rdBe32_toNat (s : Bytes) (i : Nat) :
    (rdBe32 s i).toNat = (byteAt s i).toNat * 2 ^ 24 + (byteAt s (i + 1)).toNat * 2 ^ 16
      + (byteAt s (i + 2)).toNat * 2 ^ 8 + (byteAt s (i + 3)).toNat := by
  unfold rdBe32
  generalize byteAt s i = a
  generalize byteAt s (i + 1) = b
  generalize byteAt s (i + 2) = c
  generalize byteAt s (i + 3) = d
  have ha := a.isLt
  have hb := b.isLt
  have hc := c.isLt
  have hd := d.isLt
  simp only [BitVec.toNat_or, BitVec.toNat_shiftLeft, BitVec.truncate_eq_setWidth, BitVec.toNat_setWidth,
    Nat.shiftLeft_eq]
  rw [Nat.mod_eq_of_lt (by omega : a.toNat < 2 ^ 32), Nat.mod_eq_of_lt (by omega : b.toNat < 2 ^ 32),
    Nat.mod_eq_of_lt (by omega : c.toNat < 2 ^ 32), Nat.mod_eq_of_lt (by omega : d.toNat < 2 ^ 32),
    Nat.mod_eq_of_lt (by omega), Nat.mod_eq_of_lt (by omega), Nat.mod_eq_of_lt (by omega),
    shifted_or _ _ 24 (by omega),
    show a.toNat * 2 ^ 24 + b.toNat * 2 ^ 16 = (a.toNat * 2 ^ 8 + b.toNat) * 2 ^ 16 by omega,
    shifted_or _ _ 16 (by omega),
    show (a.toNat * 2 ^ 8 + b.toNat) * 2 ^ 16 + c.toNat * 2 ^ 8
      = ((a.toNat * 2 ^ 8 + b.toNat) * 2 ^ 8 + c.toNat) * 2 ^ 8 by omega,
    shifted_or _ _ 8 (by omega)]

theorem rdBe16_toNat (s : Bytes) (i : Nat) :
    (rdBe16 s i).toNat = (byteAt s i).toNat * 2 ^ 8 + (byteAt s (i + 1)).toNat := by
  unfold rdBe16
  generalize byteAt s i = a
  generalize byteAt s (i + 1) = b
  have ha := a.isLt
  have hb := b.isLt
  simp only [BitVec.toNat_or, BitVec.toNat_shiftLeft, BitVec.truncate_eq_setWidth, BitVec.toNat_setWidth,
    Nat.shiftLeft_eq]
  rw [Nat.mod_eq_of_lt (by omega : a.toNat < 2 ^ 16), Nat.mod_eq_of_lt (by omega : b.toNat < 2 ^ 16),
    Nat.mod_eq_of_lt (by omega), shifted_or _ _ 8 (by omega)]

theorem slice_four (data : Bytes) (i : Nat) (h : i + 4 ≤ data.length) :
    (data.drop i).take 4 = [byteAt data i, byteAt data (i + 1), byteAt data (i + 2), byteAt data (i + 3)] := by
  apply List.ext_getElem
  · simp
    omega
  · intro n h1 h2
    simp at h2
    simp [byteAt]
    rcases (by omega : n = 0 ∨ n = 1 ∨ n = 2 ∨ n = 3) with rfl | rfl | rfl | rfl <;> simp <;>
      rw [List.getElem?_eq_getElem (by omega)] <;> simp

theorem slice_two (data : Bytes) (i : Nat) (h : i + 2 ≤ data.length) :
    (data.drop i).take 2 = [byteAt data i, byteAt data (i + 1)] := by
  apply List.ext_getElem
  · simp
    omega
  · intro n h1 h2
    simp at h2
    simp [byteAt]
    rcases (by omega : n = 0 ∨ n = 1) with rfl | rfl <;> simp <;>
      rw [List.getElem?_eq_getElem (by omega)] <;> simp

/-- A word written big-endian behind `p` is read back at its place. -/
theorem rdBe32_be32 (v : U32) (p t : Bytes) : rdBe32 (p ++ be32 v ++ t) p.length = v := by
  have h := slice_four (p ++ be32 v ++ t) p.length (by simp [be32])
  rw [List.append_assoc, List.drop_left, be32_eq] at h
  simp only [List.cons_append, List.take_succ_cons, List.take_zero, List.cons.injEq] at h
  obtain ⟨h0, h1, h2, h3, -⟩ := h
  apply BitVec.eq_of_toNat_eq
  rw [rdBe32_toNat, List.append_assoc, be32_eq]
  simp only [List.cons_append]
  rw [← h0, ← h1, ← h2, ← h3]
  simp
  omega

/-- A half word written big-endian behind `p` is read back at its place. -/
theorem rdBe16_be16 (v : U16) (p t : Bytes) : rdBe16 (p ++ be16 v ++ t) p.length = v := by
  have h := slice_two (p ++ be16 v ++ t) p.length (by simp [be16])
  rw [List.append_assoc, List.drop_left, be16_eq] at h
  simp only [List.cons_append, List.take_succ_cons, List.take_zero, List.cons.injEq] at h
  obtain ⟨h0, h1, -⟩ := h
  apply BitVec.eq_of_toNat_eq
  rw [rdBe16_toNat, List.append_assoc, be16_eq]
  simp only [List.cons_append]
  rw [← h0, ← h1]
  simp
  omega

theorem isShort_iff (data : Bytes) :
    isShort data = true ↔
      data.length < 10 ∨ (data.length < 14 ∧ (byteAt data 0).getLsbD 4 = true) := by
  simp only [isShort, flagsDec, Bool.or_eq_true, Bool.and_eq_true, decide_eq_true_eq]

end Sys2Proof.Machine
end

