-- ==== Sys2Proof/Laws/PerInstr.lean ====
section
/-! SUPPORT. The per-instruction family `Encoding`: what the command decoder reads from the command a host
presents for the instruction is that instruction, with every operand. -/

namespace Sys2Proof.Laws.Encoding

/-- Decoding the encoded instruction gives it back. -/
def Statement (i : Instr) : Prop := decode (encode i) = .ok i

theorem flagsEnc (r : PacketType) : Statement (.flagsEnc r) := rfl
theorem flagsDec (b : Byte) : Statement (.flagsDec b) := rfl
theorem pixcfgEnc (r : PixelConfig) : Statement (.pixcfgEnc r) := rfl
theorem pixcfgDec (b : Byte) : Statement (.pixcfgDec b) := rfl
theorem idEnc (r : ID) : Statement (.idEnc r) := rfl
theorem idDec (b : Byte) : Statement (.idDec b) := rfl
theorem hdrEnc (r : Header) : Statement (.hdrEnc r) := rfl
theorem hdrDec (data : Bytes) : Statement (.hdrDec data) := rfl
theorem pktDec (data : Bytes) : Statement (.pktDec data) := rfl
theorem sliceSend (hdr : Header) (data : Bytes) : Statement (.sliceSend hdr data) := rfl
theorem msgEnc (msg : Message) : Statement (.msgEnc msg) := rfl
theorem msgDec (id : ID) (data : Bytes) : Statement (.msgDec id data) := rfl
theorem write (data : Bytes) : Statement (.write data) := rfl
theorem writeOffset (data : Bytes) (offset : U32) : Statement (.writeOffset data offset) := rfl
theorem writeMessage (msg : Message) : Statement (.writeMessage msg) := rfl
theorem getIncoming : Statement .getIncoming := rfl

end Sys2Proof.Laws.Encoding
end

