-- ==== Sys2Proof/Laws/Run.lean ====
section
/-! SUPPORT. Runs of the machine, one step at a time, and the step while a write is in progress. -/

namespace Sys2Proof.Machine

theorem core_run_zero (s : State) : Host.Core.run Sys2Proof.core 0 s = .next s := rfl

theorem core_run_succ (k : Nat) {s u : State} (h : step s = .next u) :
    Host.Core.run Sys2Proof.core (k + 1) s = Host.Core.run Sys2Proof.core k u := by
  have hs : Sys2Proof.core.step s = .next u := h
  simp only [Host.Core.run, hs]

/-- While a write is in progress and the environment is silent, a step is the next fragment. -/
theorem step_inflight {s : State} {t : Transfer} (ht : s.inflight = some t) (hin : s.inputs = []) :
    step s = sendFragment t s := by
  simp only [step, hin, framerStep, ht]

end Sys2Proof.Machine
end

