-- ==== Sys2Proof/Laws/Step.lean ====
section
/-! SUPPORT. Inversion: what a step can have done, said once. -/

namespace Sys2Proof.Machine

/-- A command that is taken meets no write in progress. -/
theorem whenIdle_next {s u : State} {k : Outcome} (h : whenIdle s k = .next u) :
    s.inflight = none ∧ k = .next u := by
  unfold whenIdle at h
  cases hi : s.inflight <;> simp_all

theorem exec_busy {s : State} {t : Transfer} (h : s.inflight = some t) (i : Instr) :
    exec i s = .refused .commandInProgress := by
  cases i <;> exact whenIdle_busy h _

/-- Every way in which a step answers a next state: a delivery; the next fragment of a write in progress; a
presented command; or nothing, while idle. -/
theorem step_cases {s u : State} (h : step s = .next u) :
    (∃ b rest, s.inputs = .datagram b :: rest ∧ u = deliver b (s.setInputs rest)) ∨
    (∃ t, s.inflight = some t ∧ ∃ ins, (ins = s.inputs ∨ s.inputs = .quiet :: ins) ∧
      sendFragment t (s.setInputs ins) = .next u) ∨
    (∃ c rest, s.inflight = none ∧ s.inputs = .command c :: rest ∧
      runCommand c (s.setInputs rest) = .next u) ∨
    (s.inflight = none ∧ ∃ ins, (ins = s.inputs ∨ s.inputs = .quiet :: ins) ∧ u = s.setInputs ins) := by
  unfold step framerStep at h
  split at h
  · rename_i b rest hin
    cases h
    exact .inl ⟨b, rest, hin, rfl⟩
  · rename_i rest hin
    split at h
    · rename_i t ht
      exact .inr (.inl ⟨t, ht, rest, .inr hin, h⟩)
    · rename_i ht
      cases h
      exact .inr (.inr (.inr ⟨ht, rest, .inr hin, rfl⟩))
  · rename_i c rest hin
    split at h
    · rename_i ht
      exact .inr (.inr (.inl ⟨c, rest, ht, hin, h⟩))
    · rename_i t ht
      exact .inr (.inl ⟨t, ht, _, .inl rfl, h⟩)
  · split at h
    · rename_i t ht
      exact .inr (.inl ⟨t, ht, _, .inl rfl, h⟩)
    · rename_i ht
      cases h
      exact .inr (.inr (.inr ⟨ht, _, .inl rfl, rfl⟩))

end Sys2Proof.Machine
end

