-- ==== Sys2Proof/Laws/Utf8.lean ====
section
/-! SUPPORT. The UTF-8 decoder, one unit at a time: what it does with each row of the table, and, once, every
way in which it can answer a text. -/

namespace Sys2Proof.Machine

theorem utf8Decode_one {b0 : Byte} (r : Bytes) (h : utf8Unit1 b0 = true) :
    utf8Decode (b0 :: r) = (utf8Decode r).map (utf8Char1 b0 :: ·) := by
  rw [utf8Decode.eq_def]
  simp [h]

theorem utf8Decode_two {b0 b1 : Byte} (r : Bytes) (h0 : utf8Unit1 b0 = false)
    (h1 : utf8Unit2 b0 b1 = true) :
    utf8Decode (b0 :: b1 :: r) = (utf8Decode r).map (utf8Char2 b0 b1 :: ·) := by
  rw [utf8Decode.eq_def]
  simp [h0, h1]

theorem utf8Decode_three {b0 b1 b2 : Byte} (r : Bytes) (h0 : utf8Unit1 b0 = false)
    (h1 : utf8Unit2 b0 b1 = false) (h2 : utf8Unit3 b0 b1 b2 = true) :
    utf8Decode (b0 :: b1 :: b2 :: r) = (utf8Decode r).map (utf8Char3 b0 b1 b2 :: ·) := by
  rw [utf8Decode.eq_def]
  simp [h0, h1, h2]

theorem utf8Decode_four {b0 b1 b2 b3 : Byte} (r : Bytes) (h0 : utf8Unit1 b0 = false)
    (h1 : utf8Unit2 b0 b1 = false) (h2 : utf8Unit3 b0 b1 b2 = false) (h3 : utf8Unit4 b0 b1 b2 b3 = true) :
    utf8Decode (b0 :: b1 :: b2 :: b3 :: r) = (utf8Decode r).map (utf8Char4 b0 b1 b2 b3 :: ·) := by
  rw [utf8Decode.eq_def]
  simp [h0, h1, h2, h3]

/-- Every way in which the decoder answers a text. -/
theorem utf8Decode_cases {d : Bytes} {t : Text} (h : utf8Decode d = some t) :
    (d = [] ∧ t = []) ∨
    (∃ b0 r t', d = b0 :: r ∧ utf8Unit1 b0 = true ∧ utf8Decode r = some t' ∧ t = utf8Char1 b0 :: t') ∨
    (∃ b0 b1 r t', d = b0 :: b1 :: r ∧ utf8Unit2 b0 b1 = true ∧ utf8Decode r = some t' ∧
      t = utf8Char2 b0 b1 :: t') ∨
    (∃ b0 b1 b2 r t', d = b0 :: b1 :: b2 :: r ∧ utf8Unit3 b0 b1 b2 = true ∧ utf8Decode r = some t' ∧
      t = utf8Char3 b0 b1 b2 :: t') ∨
    (∃ b0 b1 b2 b3 r t', d = b0 :: b1 :: b2 :: b3 :: r ∧ utf8Unit4 b0 b1 b2 b3 = true ∧
      utf8Decode r = some t' ∧ t = utf8Char4 b0 b1 b2 b3 :: t') := by
  match d with
  | [] =>
    simp [utf8Decode] at h
    exact .inl ⟨rfl, h⟩
  | b0 :: r0 =>
    right
    cases h0 : utf8Unit1 b0 with
    | true =>
      rw [utf8Decode_one _ h0, Option.map_eq_some_iff] at h
      obtain ⟨t', h1, h2⟩ := h
      exact .inl ⟨_, _, _, rfl, h0, h1, h2.symm⟩
    | false =>
      right
      match r0 with
      | [] =>
        rw [utf8Decode.eq_def] at h
        simp [h0] at h
      | b1 :: r1 =>
        cases h1 : utf8Unit2 b0 b1 with
        | true =>
          rw [utf8Decode_two _ h0 h1, Option.map_eq_some_iff] at h
          obtain ⟨t', h2, h3⟩ := h
          exact .inl ⟨_, _, _, _, rfl, h1, h2, h3.symm⟩
        | false =>
          right
          match r1 with
          | [] =>
            rw [utf8Decode.eq_def] at h
            simp [h0, h1] at h
          | b2 :: r2 =>
            cases h2 : utf8Unit3 b0 b1 b2 with
            | true =>
              rw [utf8Decode_three _ h0 h1 h2, Option.map_eq_some_iff] at h
              obtain ⟨t', h3, h4⟩ := h
              exact .inl ⟨_, _, _, _, _, rfl, h2, h3, h4.symm⟩
            | false =>
              right
              match r2 with
              | [] =>
                rw [utf8Decode.eq_def] at h
                simp [h0, h1, h2] at h
              | b3 :: r3 =>
                cases h3 : utf8Unit4 b0 b1 b2 b3 with
                | true =>
                  rw [utf8Decode_four _ h0 h1 h2 h3, Option.map_eq_some_iff] at h
                  obtain ⟨t', h4, h5⟩ := h
                  exact ⟨_, _, _, _, _, _, rfl, h3, h4, h5.symm⟩
                | false =>
                  rw [utf8Decode.eq_def] at h
                  simp [h0, h1, h2, h3] at h

end Sys2Proof.Machine
end

