-- ==== Sys2Proof/Tests/Slice0.lean ====
section
/-! SUPPORT. The model's own tests. Expected results come from spec/95_test_vectors.md (its number stands in
each comment) or from the rule named; the last part shows, for each statement with hypotheses, values that
meet them all. -/

namespace Sys2Proof.Tests

open Sys2Proof.Machine

/-- The next state of an outcome. -/
def after : Outcome → Option State
  | .next s => some s
  | .fault _ => none
  | .refused _ => none

/-- A field of the state one instruction leaves, from a fresh framer whose transport answers `Ok`. -/
def onFresh {α : Type} (i : Instr) (f : State → α) : Option α :=
  (after (exec i { State.reset with txScript := [.ok] })).map f

/-- The value a fresh framer returns with `OK`. -/
def okValue (i : Instr) : Option Value :=
  match onFresh i (·.result) with
  | some (some ⟨.ok, v⟩) => some v
  | _ => none

def pt1 : PacketType := { PacketType.zero with version := 1 }
def pt1push : PacketType := { pt1 with push := true }

/-- The header of V30. -/
def headerV30 : Header :=
  { packetType := pt1push, sequenceNumber := 1, pixelConfig := defaultPixcfg, id := .default, offset := 0,
    length := 9, timecode := none }

/-- The header of V37. -/
def headerV37 : Header :=
  { headerV30 with
    packetType := { pt1push with timecode := true }
    sequenceNumber := 3
    offset := 0x100
    length := 3
    timecode := some 0x12345678 }

/-! ## WellFormed refuses an ill-formed term for each check -/

theorem test_wellFormed_version : PacketType.wellFormed PacketType.zero = false := by decide
theorem test_wellFormed_custom : ID.wellFormed (.custom 250) = false := by decide
theorem test_wellFormed_timecode_missing :
    Header.consistent { headerV37 with timecode := none } = false := by decide
theorem test_wellFormed_timecode_extra :
    Header.consistent { headerV30 with timecode := some 5 } = false := by decide
theorem test_wellFormed_message : Instr.wellFormed (.writeMessage (.unparsed (.custom 1) [])) = false := by decide
theorem test_wellFormed_header : Instr.wellFormed (.hdrEnc headerV37) = true := by decide

/-! ## Command words, written out bit by bit from the table of R89 -/

theorem test_decode_flagsEnc : decodeTableWord 8 0b00010000 = some (.flagsEnc .zero) := by decide
theorem test_decode_flagsDec : decodeTableWord 8 0b00010001 = some (.flagsDec 0) := by decide
theorem test_decode_pixcfgEnc : decodeTableWord 8 0b00010010 = some (.pixcfgEnc .zero) := by decide
theorem test_decode_pixcfgDec : decodeTableWord 8 0b00010011 = some (.pixcfgDec 0) := by decide
theorem test_decode_idEnc : decodeTableWord 8 0b00010100 = some (.idEnc .reserved) := by decide
theorem test_decode_idDec : decodeTableWord 8 0b00010101 = some (.idDec 0) := by decide
theorem test_decode_hdrEnc : decodeTableWord 8 0b00100000 = some (.hdrEnc .zero) := by decide
theorem test_decode_hdrDec : decodeTableWord 8 0b00100001 = some (.hdrDec []) := by decide
theorem test_decode_pktDec : decodeTableWord 8 0b00100010 = some (.pktDec []) := by decide
theorem test_decode_sliceSend : decodeTableWord 8 0b00110000 = some (.sliceSend .zero []) := by decide
theorem test_decode_msgEnc : decodeTableWord 8 0b01000000 = some (.msgEnc (.unparsed .reserved [])) := by decide
theorem test_decode_msgDec : decodeTableWord 8 0b01000001 = some (.msgDec .reserved []) := by decide
theorem test_decode_write : decodeTableWord 8 0b01010000 = some (.write []) := by decide
theorem test_decode_writeOffset : decodeTableWord 8 0b01010001 = some (.writeOffset [] 0) := by decide
theorem test_decode_writeMessage :
    decodeTableWord 8 0b01010010 = some (.writeMessage (.unparsed .reserved [])) := by decide
theorem test_decode_getIncoming : decodeTableWord 8 0b01010011 = some .getIncoming := by decide
/-- V100. -/
theorem test_decode_illegal :
    [0x00, 0x16, 0x23, 0x31, 0x42, 0x54, 0xFF].map (decodeTableWord 8) = List.replicate 7 none := by decide
/-- V101. -/
theorem test_decode_write_data :
    decode { op := 0x50, operands := { Operands.zero with data := [0xAA] } } = .ok (.write [0xAA]) := by rfl

/-! ## The field codecs -/

/-- V3. -/
theorem test_flagsEnc_all : okValue (.flagsEnc
    { version := 3, timecode := true, storage := true, reply := true, query := true, push := true })
    = some (.byte 0xDF) := by decide
/-- V4. -/
theorem test_flagsEnc_reply : okValue (.flagsEnc { PacketType.zero with version := 2, reply := true })
    = some (.byte 0x84) := by decide
/-- V7. -/
theorem test_flagsDec_version0 : okValue (.flagsDec 0x20) = some (.packetType pt1) := by decide
/-- V9. -/
theorem test_flagsDec_timecode :
    okValue (.flagsDec 0x51) = some (.packetType { pt1push with timecode := true }) := by decide
/-- V15. -/
theorem test_pixcfgEnc : okValue (.pixcfgEnc { dataType := .grayscale, dataSize := .bits8, customerDefined := true })
    = some (.byte 0xA3) := by decide
/-- V15g. -/
theorem test_pixcfgDec : okValue (.pixcfgDec 0x1E)
    = some (.pixelConfig { dataType := .rgbw, dataSize := .bits32, customerDefined := false }) := by decide
/-- V15j. -/
theorem test_pixcfgDec_reserved : okValue (.pixcfgDec 0x29)
    = some (.pixelConfig { dataType := .undefined, dataSize := .bits1, customerDefined := false }) := by decide
/-- V28. -/
theorem test_idEnc_custom : okValue (.idEnc (.custom 249)) = some (.byte 0xF9) := by decide
/-- V29. -/
theorem test_idEnc_clamp : okValue (.idEnc (.custom 246)) = some (.byte 0x01) := by decide
/-- V24. -/
theorem test_idDec_control : okValue (.idDec 0xF6) = some (.id .control) := by decide
/-- V26. -/
theorem test_idDec_249 : okValue (.idDec 0xF9) = some (.id (.custom 249)) := by decide

/-! ## The header codec -/

/-- V31. -/
theorem test_hdrEnc_timecode : okValue (.hdrEnc
    { packetType := { PacketType.zero with version := 2, timecode := true, storage := true }
      sequenceNumber := 15
      pixelConfig := { dataType := .grayscale, dataSize := .bits8, customerDefined := true }
      id := .config
      offset := 0xDEADBEEF
      length := 0x1234
      timecode := some 0xCAFEF00D })
    = some (.bytes [0x98, 0x0F, 0xA3, 0xFA, 0xDE, 0xAD, 0xBE, 0xEF, 0x12, 0x34, 0xCA, 0xFE, 0xF0, 0x0D]) := by
  decide
/-- V36: the ID is clamped. -/
theorem test_hdrEnc_clamp : okValue (.hdrEnc
    { headerV30 with packetType := pt1, id := .custom 251, length := 0 })
    = some (.bytes [0x40, 0x01, 0x0D, 0x01, 0, 0, 0, 0, 0, 0]) := by decide
/-- V37. -/
theorem test_hdrDec_timecode :
    okValue (.hdrDec [0x51, 0x03, 0x0D, 0x01, 0x00, 0x00, 0x01, 0x00, 0x00, 0x03, 0x12, 0x34, 0x56, 0x78])
    = some (.header headerV37 14 false) := by decide
/-- V39: 12 bytes with the timecode bit are short. -/
theorem test_hdrDec_short :
    okValue (.hdrDec [0x10, 0x01, 0x0D, 0x01, 0, 0, 0, 0, 0, 2, 0xAA, 0xBB])
    = some (.header defaultHeader 0 true) := by decide
/-- V46: the payload is not trimmed to the length field. -/
theorem test_pktDec_untrimmed :
    okValue (.pktDec [0x41, 0x01, 0x0D, 0x01, 0, 0, 0, 0, 0, 1, 0xAA, 0xBB, 0xCC])
    = some (.packetShort
      { header := { headerV30 with length := 1 }, data := [0xAA, 0xBB, 0xCC], parsed := none } false) := by decide
/-- V49: a reply with an empty payload is the empty text. -/
theorem test_pktDec_reply_empty :
    (okValue (.pktDec [0x44, 0x00, 0x0D, 0x01, 0, 0, 0, 0, 0, 0])).map
      (fun v => match v with
        | .packetShort p _ => (p.data, p.parsed)
        | _ => ([0], none))
    = some ([], some (.unparsed .default [])) := by decide

/-! ## The fragment sequencer -/

/-- A write of 1441 bytes after its first fragment (V56). -/
def secondOf1441 (template : Header) : State :=
  { State.reset with
    seq := 2
    txScript := [.ok]
    sendbuf := contentFrom (fun i => BitVec.ofNat 8 i) 0 sendbufSize
    inflight := some
      { template := template, data := List.replicate 1441 0xAB, k := 1, chunks := 2, total := 1450 } }

/-- V54: one byte, and the datagram of the template with push set. -/
theorem test_sliceSend_one : onFresh (.sliceSend { headerV30 with packetType := pt1, length := 0 } [0])
    (fun s => (s.result, s.seq, s.inflight, s.txlog.map (·.bytes)))
    = some (some ⟨.ok, .count 11⟩, 2, none, [[0x41, 0x01, 0x0D, 0x01, 0, 0, 0, 0, 0, 1, 0]]) := by decide
/-- V53. -/
theorem test_sliceSend_empty : onFresh (.sliceSend headerV30 [])
    (fun s => (s.result, s.seq, s.txlog)) = some (some ⟨.ok, .count 0⟩, 1, []) := by decide
/-- V56: the second fragment, its offset 0x5A0, the total 1461. -/
theorem test_second_fragment :
    (after (step (secondOf1441 { headerV30 with packetType := pt1 }))).map
      (fun s => (s.result, s.seq, s.inflight, s.txlog.map (·.bytes)))
    = some (some ⟨.ok, .count 1461⟩, 3, none,
      [[0x41, 0x02, 0x0D, 0x01, 0x00, 0x00, 0x05, 0xA0, 0x00, 0x01, 0xAB]]) := by decide +kernel
/-- V61: the offset wraps; bytes of the buffer behind the datagram stay (R27). -/
theorem test_offset_wraps :
    (after (step (secondOf1441 { headerV30 with packetType := pt1, offset := 0xFFFFFE00 }))).map
      (fun s => ((s.txlog.map (·.bytes)).map (fun b => (b.drop 4).take 4), sendbufByte s.sendbuf 20,
        sendbufByte s.sendbuf 21))
    = some ([[0x00, 0x00, 0x03, 0xA0]], some 20, some 21) := by decide +kernel
/-- R177, V68: a failing transmit: the counter stays, the entry records the error. -/
theorem test_transport_error :
    (after (exec (.write [1]) { State.reset with txScript := [.err ⟨5⟩] })).map
      (fun s => (s.result, s.seq, s.inflight, s.txlog.map (·.outcome)))
    = some (some ⟨.transportError, .transportInfo ⟨5⟩⟩, 1, none, [.err ⟨5⟩]) := by decide
/-- V16. -/
theorem test_seq_wraps : seqAdvance 15 = 1 := by decide

/-! ## The message codec -/

/-- V80. -/
theorem test_msgEnc_unparsed : okValue (.msgEnc (.unparsed (.custom 7) ['h', 'i']))
    = some (.encoded (.custom 7) [0x68, 0x69]) := by decide
/-- V78: a surrogate. -/
theorem test_msgDec_surrogate : okValue (.msgDec .default [0xED, 0xA0, 0x80]) = some (.message none) := by decide
/-- V79. -/
theorem test_msgDec_empty : okValue (.msgDec .control []) = some (.message (some (.unparsed .control []))) := by
  decide
/-- V75's bytes are the text of one character. -/
theorem test_utf8_two_bytes : utf8Decode [0xC3, 0xA9] = some ['é'] := by decide
/-- V78: an overlong form. -/
theorem test_utf8_overlong : utf8Decode [0xC0, 0x80] = none := by decide

/-! ## The Connection operations -/

/-- V90, the source's scenario. -/
theorem test_write_scenario : onFresh (.write [0xFF, 0, 0, 0, 0xFF, 0, 0, 0, 0xFF])
    (fun s => (s.result, s.seq, s.txlog))
    = some (some ⟨.ok, .count 19⟩, 2, [⟨resetDest,
      [0x41, 0x01, 0x0D, 0x01, 0, 0, 0, 0, 0, 0x09, 0xFF, 0, 0, 0, 0xFF, 0, 0, 0, 0xFF], .ok⟩]) := by decide
/-- V95. -/
theorem test_write_config :
    (after (exec (.write [1, 2])
      { State.fresh resetDest (fun _ => 0xEE)
          { dataType := .grayscale, dataSize := .bits8, customerDefined := true } (.custom 12)
        with txScript := [.ok] })).map (fun s => s.txlog.map (·.bytes))
    = some [[0x41, 0x01, 0xA3, 0x0C, 0, 0, 0, 0, 0, 2, 1, 2]] := by decide
/-- R222: the offset of the caller. -/
theorem test_writeOffset : onFresh (.writeOffset [0xAA] 100) (fun s => s.txlog.map (·.bytes))
    = some [[0x41, 0x01, 0x0D, 0x01, 0, 0, 0, 0x64, 0, 1, 0xAA]] := by decide
/-- V93. -/
theorem test_writeMessage : onFresh (.writeMessage (.unparsed (.custom 7) ['h', 'i']))
    (fun s => (s.result, s.seq, s.cfgId, s.txlog.map (·.bytes)))
    = some (some ⟨.ok, .count 12⟩, 2, .default,
      [[0x41, 0x01, 0x0D, 0x07, 0, 0, 0, 0, 0, 2, 0x68, 0x69]]) := by decide
/-- V97. -/
theorem test_getIncoming_empty : onFresh .getIncoming (·.result) = some (some ⟨.emptyQueue, .nothing⟩) := by decide
/-- V98. -/
theorem test_getIncoming_head :
    (after (exec .getIncoming
      { State.reset with inq := [{ emptyPacket with data := [1] }, { emptyPacket with data := [2] }] })).map
      (fun s => (s.result, s.inq))
    = some (some ⟨.ok, .packet { emptyPacket with data := [1] }⟩, [{ emptyPacket with data := [2] }]) := by decide
/-- V99: a short datagram is queued. -/
theorem test_delivery_short :
    (after (step { State.reset with inputs := [.datagram [0x41, 0x01]] })).map (fun s => (s.inq, s.result))
    = some ([emptyPacket], none) := by decide
/-- P5, command 3. -/
theorem test_illegal_command : (after (step (State.reset.withFetchWord 8 0x77))).map (·.result)
    = some (some ⟨.illegalCommand, .opcodeInfo 0x77⟩) := by decide
/-- R270, R240. -/
theorem test_construct_unresolved (content : Nat → Byte) :
    construct none content = .failed .addressResolutionError := rfl

/-- R27, R57: construction leaves a byte at the last index of the buffer, and there is none beyond. -/
theorem test_fresh_sendbuf (content : Nat → Byte) :
    let s := State.fresh resetDest content defaultPixcfg .default
    sendbufByte s.sendbuf 1499 = some (content 1499) ∧ sendbufByte s.sendbuf 1500 = none := by
  constructor <;> simp only [State.fresh, sendbufByte, contentFrom_getElem?] <;> rfl

/-! ## Witnesses: values that meet all hypotheses of a statement together -/

/-- An idle framer: the hypothesis of every statement about one command. -/
theorem test_witness_idle : State.reset.inflight = none := by decide
theorem test_witness_FlagsEncodeBits :
    State.reset.inflight = none ∧ PacketType.zero.version = 0 := by decide
theorem test_witness_FlagsDecodeFields : State.reset.inflight = none := by decide
theorem test_witness_FlagsRoundTrip : pt1.version = 1 := by decide
theorem test_witness_PixcfgEncodeBits : State.reset.inflight = none := by decide
theorem test_witness_PixcfgDecodeFields : State.reset.inflight = none := by decide
theorem test_witness_IdEncodeBytes : State.reset.inflight = none := by decide
theorem test_witness_IdDecodeTotal : State.reset.inflight = none ∧ (249 : Byte) ∉ canonicalBytes := by decide
theorem test_witness_IdRoundTrip :
    (∀ v, ID.control ≠ .custom v) ∧ (245 : Byte) ∉ canonicalBytes ∧ (246 : Byte) ∈ canonicalBytes := by decide
theorem test_witness_SequencePeriod : (15 : BitVec 4) ≠ 0 ∧ 1 ≤ (16 : Nat) := by decide
/-- A step that hands over a datagram the transport answers with `Ok`; one that the transport answers with
an error; and one that hands over none. -/
theorem test_witness_SequenceAdvance : (14 : BitVec 4) ≠ 15 ∧
    (after (step { State.reset with inputs := [.command (encode (.write [1]))], txScript := [.ok] })).map
      (fun u => (u.txlog.map (·.outcome), u.seq)) = some ([.ok], 2) ∧
    (after (step { State.reset with inputs := [.command (encode (.write [1]))], txScript := [.err ⟨5⟩] })).map
      (fun u => (u.txlog.map (·.outcome), u.seq)) = some ([.err ⟨5⟩], 1) ∧
    (after (step State.reset)).map (fun u => (u.txlog, u.seq)) = some ([], 1) := by decide
theorem test_witness_HeaderLengthByTimecode :
    ¬ ShortInput (List.replicate 10 0) ∧ ¬ ShortInput (List.replicate 14 0x10) ∧
    headerV37.packetType.timecode = true ∧ headerV37.timecode = some (headerV37.timecode.getD 0) := by
  unfold ShortInput
  decide
theorem test_witness_ReplyFlagGatesParsing :
    ¬ ShortInput (List.replicate 10 0x44) ∧ ¬ ShortInput (List.replicate 10 0) := by
  unfold ShortInput
  decide
theorem test_witness_HeaderEncodeLayout : State.reset.inflight = none ∧
    headerV30.packetType.timecode = false ∧ headerV37.packetType.timecode = true := by decide
/-- 9 bytes; 13 bytes with the timecode bit; 10 bytes without it; 14 with it. -/
theorem test_witness_HeaderDecodeFields : State.reset.inflight = none ∧
    ShortInput (List.replicate 9 0) ∧ ShortInput (List.replicate 13 0x10) ∧
    ¬ ShortInput (List.replicate 10 0) ∧ ¬ ShortInput (List.replicate 14 0x10) := by
  unfold ShortInput
  decide
theorem test_witness_HeaderRoundTrip : State.reset.inflight = none ∧ headerV30.wellFormed = true ∧
    headerV37.wellFormed = true := by decide
theorem test_witness_PacketDecodeParts : State.reset.inflight = none ∧
    ShortInput (List.replicate 13 0x10) ∧ ¬ ShortInput (List.replicate 13 0) := by
  unfold ShortInput
  decide
theorem test_witness_HeaderDecodersAlwaysOk : State.reset.inflight = none := by decide
theorem test_witness_EmptyPayloadSendsNothing : State.reset.inflight = none := by decide
/-- 1441 bytes: two chunks, the first of them full. -/
theorem test_witness_ChunkPartition : List.replicate 1441 (0 : Byte) ≠ [] ∧
    1 < fragmentsOf (List.replicate 1441 (0 : Byte)).length ∧
    0 + 1 < fragmentsOf (List.replicate 1441 (0 : Byte)).length := by
  rw [List.length_replicate]
  exact ⟨List.ne_nil_of_length_pos (by rw [List.length_replicate]; decide), by decide, by decide⟩
/-- The last base at which chunk 1 does not wrap, and the next one. -/
theorem test_witness_OffsetArithmetic :
    (0xFFFFFA5F : U32).toNat + 1 * 1440 ≤ 2 ^ 32 - 1 ∧ 2 ^ 32 - 1 < (0xFFFFFA60 : U32).toNat + 1 * 1440 := by
  decide
theorem test_witness_SliceSendFirstStep : State.reset.inflight = none := by decide
/-- A write in progress under each of the three inputs. -/
theorem test_witness_FramerStepSendsNextFragment :
    ∃ t, (secondOf1441 headerV30).inflight = some t ∧ (secondOf1441 headerV30).inputs = [] ∧
      ((secondOf1441 headerV30).setInputs [.command (encode .getIncoming)]).inflight = some t ∧
      ((secondOf1441 headerV30).setInputs [.quiet]).inflight = some t := ⟨_, rfl, rfl, rfl, rfl⟩
theorem test_witness_SliceSendWholeRun :
    let s := { State.reset with txScript := [.ok] }
    s.inflight = none ∧ s.inputs = [] ∧ s.seq ≠ 0 ∧ ([1] : Bytes) ≠ [] ∧
      s.txScript = List.replicate (fragmentsOf ([1] : Bytes).length) TxOutcome.ok ++ [] := by decide
/-- The second of two fragments fails. -/
theorem test_witness_TransportFailureAborts :
    let s := { State.reset with txScript := [.ok, .err ⟨5⟩] }
    s.inflight = none ∧ s.inputs = [] ∧ s.seq ≠ 0 ∧
      1 < fragmentsOf (List.replicate 1441 (0 : Byte)).length ∧
      s.txScript = List.replicate 1 TxOutcome.ok ++ .err ⟨5⟩ :: [] := by
  refine ⟨by decide, by decide, by decide, ?_, by decide⟩
  rw [List.length_replicate]
  decide
theorem test_witness_WriteTerminates :
    ∃ t, (secondOf1441 headerV30).inflight = some t ∧ (secondOf1441 headerV30).inputs = [] ∧ t.k < t.chunks :=
  ⟨_, rfl, rfl, by decide⟩
theorem test_witness_MessageEncode : State.reset.inflight = none := by decide
theorem test_witness_MessageDecodeChain : State.reset.inflight = none := by decide
/-- A lone 0xFF is not well-formed (V76). -/
theorem test_witness_MessageDecodeEmptyAndIllFormed :
    State.reset.inflight = none ∧ ¬ Utf8WellFormed [0xFF] := by
  refine ⟨rfl, ?_⟩
  rintro ⟨units, hu, h⟩
  cases units with
  | nil => simp at h
  | cons u us =>
    have h1 := hu u (by simp)
    simp only [Utf8Unit] at h1
    obtain ⟨a, rfl, h2⟩ | ⟨a, b, rfl, h2⟩ | ⟨b, c, rfl, h2⟩ | ⟨a, b, c, rfl, h2⟩ | ⟨b, c, rfl, h2⟩ |
      ⟨a, b, c, rfl, h2⟩ | ⟨b, c, d, rfl, h2⟩ | ⟨a, b, c, d, rfl, h2⟩ | ⟨b, c, d, rfl, h2⟩ := h1 <;>
    simp at h
    omega
theorem test_witness_Utf8RoundTrip : utf8Decode [0xF4, 0x8F, 0xBF, 0xBF] = some [Char.ofNat 0x10FFFF] := by decide
theorem test_witness_WriteSendsFromTemplate : State.reset.inflight = none := by decide
theorem test_witness_WriteOffsetSendsFromTemplate : State.reset.inflight = none := by decide
theorem test_witness_WriteMessageSendsBody : State.reset.inflight = none := by decide
theorem test_witness_GetIncomingPopsHead :
    State.reset.inflight = none ∧ State.reset.inq = [] ∧
      (State.reset.setInq [emptyPacket]).inflight = none ∧
      (State.reset.setInq [emptyPacket]).inq = emptyPacket :: [] := by decide
theorem test_witness_DeliveryAppendsPacket :
    (State.reset.setInputs [.datagram [0x41]]).inputs = .datagram [0x41] :: [] ∧ ShortInput [0x41] := by
  unfold ShortInput
  decide
theorem test_witness_DeliveryDoesNotInterfere :
    Instr.write [1] ≠ .getIncoming ∧ (State.reset.setInq [emptyPacket]).inq ≠ [] := by decide
theorem test_witness_UnassignedOpcodesIllegal :
    let s := State.reset.setInputs [.command { op := 0x77, operands := Operands.zero }]
    (0x77 : Byte) ∉ assignedOpcodes ∧ s.inflight = none ∧
      s.inputs = .command { op := 0x77, operands := Operands.zero } :: [] := by decide
theorem test_witness_StepRunsDecodedCommand :
    let s := State.reset.setInputs [.command (encode (.write [1]))]
    s.inflight = none ∧ s.inputs = .command (encode (.write [1])) :: [] ∧
      decode (encode (.write [1])) = .ok (.write [1]) := ⟨rfl, rfl, rfl⟩
theorem test_witness_IdleStepHoldsState :
    State.reset.inflight = none ∧ State.reset.inputs = [] ∧ (State.reset.setInputs [.quiet]).inflight = none ∧
      (State.reset.setInputs [.quiet]).inputs = .quiet :: [] := by decide
theorem test_witness_SecondCommandRefused : ∃ t, (secondOf1441 headerV30).inflight = some t := ⟨_, rfl⟩
theorem test_witness_EveryCommandCompletes : State.reset.inflight = none := by decide
/-- An idle framer; a delivery between two fragments of a write. -/
theorem test_witness_DecodersNeverRaise : State.reset.inflight = none ∧ Instr.flagsDec 0 ∈
    [Instr.flagsDec 0, .pixcfgDec 0, .idDec 0, .hdrDec [], .pktDec [], .msgDec .control []] ∧
    (∃ t, (secondOf1441 headerV30).inflight = some t) ∧
    ((secondOf1441 headerV30).setInputs [.datagram [0x41], .quiet]).inputs = .datagram [0x41] :: [.quiet] :=
  ⟨rfl, by decide, ⟨_, rfl⟩, rfl⟩
theorem test_witness_CodecsWriteOnlyResult :
    Codec (.idDec 7) = true ∧ ∃ u, exec (.idDec 7) State.reset = .next u := ⟨rfl, _, rfl⟩
/-- A send with a payload, and one without. -/
theorem test_witness_SendsFrame :
    Sends (.write [1]) = true ∧ (∃ u, exec (.write [1]) State.reset = .next u) ∧
      ∃ u, exec (.write []) State.reset = .next u := by
  refine ⟨rfl, ?_, _, rfl⟩
  obtain ⟨u, h⟩ := sliceSend_next (writeTemplate State.reset 0 State.reset.cfgId) [1] State.reset
  refine ⟨u, ?_⟩
  rw [← h, exec, execWrite, whenIdle_idle (by rfl)]
theorem test_witness_GetIncomingFrame : ∃ u, exec .getIncoming State.reset = .next u := ⟨_, rfl⟩
/-- A command that sends, a fragment, and a step that sends one. -/
theorem test_witness_StaleSendbufNeverSent :
    (∃ u, exec (.write [1]) State.reset = .next u) ∧
      (∃ u, sendFragment (firstTransfer headerV30 [1]) State.reset = .next u) ∧
      (∃ t, (secondOf1441 headerV30).inflight = some t) ∧ ∃ u, step (secondOf1441 headerV30) = .next u := by
  refine ⟨?_, sendFragment_next _ _, ⟨_, rfl⟩, ?_⟩
  · obtain ⟨u, h⟩ := sliceSend_next (writeTemplate State.reset 0 State.reset.cfgId) [1] State.reset
    exact ⟨u, by rw [← h, exec, execWrite, whenIdle_idle (by rfl)]⟩
  · rw [step_inflight rfl rfl]
    exact sendFragment_next _ _
theorem test_witness_ConfigurationNeverWritten : ∃ u, step State.reset = .next u := ⟨_, rfl⟩
theorem test_witness_HistoryOnlyGrows : ∃ u, step State.reset = .next u := ⟨_, rfl⟩
theorem test_witness_StepKeepsInvariant : State.reset.Inv ∧ ∃ u, step State.reset = .next u := by
  refine ⟨⟨by decide, fresh_sendbuf_wf _ _ _ _, ?_, ?_, ?_, ?_⟩, _, rfl⟩ <;> simp [State.reset, State.fresh]
theorem test_witness_InvariantAfterConstruction :
    construct (some resetDest) Config.sendbufContent defaultPixcfg .default = .created State.reset := rfl
theorem test_witness_ConstructionState : (contentFrom (fun _ => 0) 0 sendbufSize).length = 1500 :=
  contentFrom_length _ _ _

end Sys2Proof.Tests
end

/-! The state family: what a command and a fragment do to the state, said once, and the invariant of the block
kept by each of these effects (spec/10_state.md). -/

namespace Sys2Proof.Machine

/-! ## What a command and a fragment do -/

/-- Every way in which a command of an idle framer completes: it ends without touching anything but `RESULT`;
it takes the head of `INQ`; or it sends the first fragment of a payload that is not empty. -/
inductive CommandEffect (s : State) : State → Prop where
  | ends (st : Status) (v : Value) (hst : st ≠ .addressResolutionError) : CommandEffect s (finish st v s)
  | pops (p : Packet) (rest : List Packet) (hinq : s.inq = p :: rest) :
      CommandEffect s (finish .ok (.packet p) (s.setInq rest))
  | sends (hdr : Header) (data : Bytes) (u : State) (hdata : data ≠ [])
      (hu : sendFragment (startTransfer hdr data) s = .next u) : CommandEffect s u

theorem retOk_effect {s u : State} {v : Value} (h : retOk v s = .next u) : CommandEffect s u := by
  cases h
  exact .ends .ok v (by decide)

theorem sliceSend_effect {s u : State} {hdr : Header} {data : Bytes} (h : sliceSend hdr data s = .next u) :
    CommandEffect s u := by
  unfold sliceSend at h
  split at h
  · exact retOk_effect h
  · rename_i hlen
    exact .sends hdr data u (fun hd => hlen (by rw [hd]; rfl)) h

theorem exec_effect {i : Instr} {s u : State} (h : exec i s = .next u) : CommandEffect s u := by
  cases i with
  | flagsEnc _ | flagsDec _ | pixcfgEnc _ | pixcfgDec _ | idEnc _ | idDec _ | hdrEnc _ | hdrDec _ | pktDec _
  | msgDec _ _ => exact retOk_effect (whenIdle_next h).2
  | sliceSend _ _ | write _ | writeOffset _ _ => exact sliceSend_effect (whenIdle_next h).2
  | msgEnc msg =>
    obtain ⟨-, hk⟩ := whenIdle_next h
    split at hk
    · cases hk
      exact .ends _ _ (by decide)
    · exact retOk_effect hk
  | writeMessage msg =>
    obtain ⟨-, hk⟩ := whenIdle_next h
    split at hk
    · cases hk
      exact .ends _ _ (by decide)
    · exact sliceSend_effect hk
  | getIncoming =>
    obtain ⟨-, hk⟩ := whenIdle_next h
    split at hk
    · cases hk
      exact .ends _ _ (by decide)
    · rename_i p rest hinq
      cases hk
      exact .pops p rest hinq

theorem runCommand_effect {c : Command} {s u : State} (h : runCommand c s = .next u) : CommandEffect s u := by
  unfold runCommand at h
  split at h
  · exact exec_effect h
  · cases h
    exact .ends _ _ (by decide)

/-- The state after the datagram `d` was laid over the start of `SENDBUF` and handed over (R36, R173). -/
def handOver (d : Bytes) (s : State) : State :=
  logTransmit d (nextOutcome s) (s.setSendbuf (d ++ s.sendbuf.drop d.length))

/-- Every way in which a fragment answers a next state: the transport fails; it succeeds and chunks are left; it
succeeds and this was the last chunk. -/
theorem sendFragment_cases {t : Transfer} {s u : State} (h : sendFragment t s = .next u) :
    ∃ hdr d, fragmentHeader t s.seq = some hdr ∧ d = hdrEnc hdr ++ chunkOf t.data t.k ∧
      ((∃ e, nextOutcome s = .err e ∧ u = finish .transportError (.transportInfo e) (handOver d s)) ∨
      (nextOutcome s = .ok ∧ t.k + 1 < t.chunks ∧
        u = ((handOver d s).setSeq (seqAdvance s.seq)).setInflight
          (some { t with k := t.k + 1, total := t.total + d.length })) ∨
      (nextOutcome s = .ok ∧ t.chunks ≤ t.k + 1 ∧
        u = finish .ok (.count (t.total + d.length)) ((handOver d s).setSeq (seqAdvance s.seq)))) := by
  obtain ⟨hdr, d, hhdr, hd, -, hs⟩ := sendFragment_spec t s
  refine ⟨hdr, d, hhdr, hd, ?_⟩
  rw [hs] at h
  unfold handOver
  cases ho : nextOutcome s with
  | err e =>
    rw [ho] at h
    cases h
    exact .inl ⟨e, rfl, rfl⟩
  | ok =>
    rw [ho] at h
    simp only [fragmentSent] at h
    split at h
    · rename_i hk
      cases h
      exact .inr (.inl ⟨rfl, hk, rfl⟩)
    · rename_i hk
      cases h
      exact .inr (.inr ⟨rfl, Nat.le_of_not_lt hk, rfl⟩)

/-! ## The history -/

@[simp] theorem handOver_txlog (d : Bytes) (s : State) :
    (handOver d s).txlog = s.txlog ++ [{ dest := s.cfgDest, bytes := d, outcome := nextOutcome s }] := rfl

/-- Each fragment adds one entry to the history, for a datagram that went to `CFG_DEST`. -/
theorem sendFragment_txlog {t : Transfer} {s u : State} (h : sendFragment t s = .next u) :
    ∃ e, u.txlog = s.txlog ++ [e] ∧ e.dest = s.cfgDest := by
  obtain ⟨hdr, d, -, -, ⟨e, -, rfl⟩ | ⟨-, -, rfl⟩ | ⟨-, -, rfl⟩⟩ := sendFragment_cases h <;>
    exact ⟨_, rfl, rfl⟩

theorem CommandEffect.txlog {s u : State} (h : CommandEffect s u) :
    u.txlog = s.txlog ∨ ∃ e, u.txlog = s.txlog ++ [e] ∧ e.dest = s.cfgDest := by
  cases h with
  | ends => exact .inl rfl
  | pops => exact .inl rfl
  | sends _ _ _ _ hu => exact .inr (sendFragment_txlog hu)

/-- Settles O54, by the four ways in which a step answers: only a fragment writes the history. -/
theorem historyOnlyGrows : Obligations.HistoryOnlyGrows := by
  intro s u h
  obtain ⟨b, rest, -, rfl⟩ | ⟨t, -, ins, -, hu⟩ | ⟨c, rest, -, -, hu⟩ | ⟨-, ins, -, rfl⟩ := step_cases h
  · exact .inl rfl
  · have hgrows := sendFragment_txlog hu
    exact .inr hgrows
  · exact (runCommand_effect hu).txlog
  · exact .inl rfl

/-! ## Admission of commands -/

/-- Settles O43: the input's head is a command and no write is in progress, so the framer runs it. -/
theorem stepRunsDecodedCommand : Obligations.StepRunsDecodedCommand := by
  intro s c i rest hidle hin hdec
  have hstep : step s = runCommand c (s.setInputs rest) := by simp only [step, hin, hidle]
  rw [hstep, runCommand, hdec]
  rfl

/-- Settles O45, by the single-writer rule that every command is under. -/
theorem secondCommandRefused : Obligations.SecondCommandRefused :=
  fun _ _ i h => exec_busy h i

/-! ## The packets the decoder builds -/

theorem decodeVersion_ne_zero (v : BitVec 2) : decodeVersion version0Decode v ≠ 0 := by
  unfold decodeVersion version0Decode
  split
  · decide
  · assumption

theorem flagsDec_wellFormed (b : Byte) : (flagsDec b).wellFormed = true :=
  bne_iff_ne.2 (decodeVersion_ne_zero _)

/-- A byte that no canonical ID has is in `CUSTOM_RANGE`. -/
theorem idDec_wellFormed (b : Byte) : (idDec b).wellFormed = true := by
  unfold idDec
  split_ifs with hreserved hdefault hcontrol hconfig hstatus hdmx hbroadcast
  case neg =>
    simp only [ID.wellFormed, inCustomRange, Bool.and_eq_true, bne_iff_ne]
    exact ⟨⟨⟨⟨⟨⟨hreserved, hdefault⟩, hcontrol⟩, hconfig⟩, hstatus⟩, hdmx⟩, hbroadcast⟩
  all_goals rfl

/-- The decoder reads a timecode exactly when the timecode flag is set (D15). -/
theorem headerFields_consistent (data : Bytes) : (headerFields data).consistent = true := by
  simp only [Header.consistent, headerFields]
  cases (flagsDec (byteAt data 0)).timecode <;> simp

theorem headerFields_wellFormed (data : Bytes) : (headerFields data).wellFormed = true := by
  simp only [Header.wellFormed, headerFields_consistent, Bool.and_true, Bool.and_eq_true]
  exact ⟨flagsDec_wellFormed _, idDec_wellFormed _⟩

/-- A typed message is read only under the ID it is tagged with. -/
theorem typedMessage_msgId {id : ID} {v : JsonValue} {m : Message} (h : typedMessage id v = some m) :
    msgId m = id := by
  cases id with
  | control | config | status =>
    obtain ⟨r, -, rfl⟩ := Option.map_eq_some_iff.1 h
    rfl
  | reserved | default | custom _ | dmx | broadcast => cases h

/-- Every stage of the message decoder tags its message with the given ID (R199 to R201). -/
theorem msgDec_msgId {id : ID} {data : Bytes} {m : Message} (h : msgDec id data = some m) : msgId m = id := by
  unfold msgDec at h
  split at h
  · split at h
    · rename_i m' hm
      cases h
      exact typedMessage_msgId hm
    · cases h
      rfl
  · obtain ⟨t, -, rfl⟩ := Option.map_eq_some_iff.1 h
    rfl

theorem pktDec_short {data : Bytes} (h : isShort data = true) : pktDec data = (emptyPacket, true) := by
  simp [pktDec, hdrDec, h]

/-- The packet of a datagram that is not short (R146 to R148). -/
theorem pktDec_not_short {data : Bytes} (h : isShort data = false) :
    (pktDec data).1 =
      { header := headerFields data
        data := data.drop (headerLength (flagsDec (byteAt data 0)))
        parsed := if (headerFields data).packetType.reply then
          msgDec (headerFields data).id (data.drop (headerLength (flagsDec (byteAt data 0)))) else none } := by
  simp [pktDec, hdrDec, h]

theorem pktDec_packetOk (data : Bytes) : PacketOk (pktDec data).1 := by
  cases hs : isShort data with
  | true =>
    rw [pktDec_short hs]
    exact ⟨by decide, fun m hm => by cases hm⟩
  | false =>
    rw [pktDec_not_short hs]
    refine ⟨headerFields_wellFormed data, fun m hm => ?_⟩
    obtain ⟨hreply, hm⟩ := Option.ite_none_right_eq_some.1 hm
    exact ⟨hreply, msgDec_msgId hm⟩

/-! ## The datagrams a write builds -/

/-- A write that has a chunk to send next: the first one, or one between two fragments. -/
def FragmentReady (t : Transfer) : Prop :=
  t.chunks = (t.data.length + 1439) / 1440 ∧ t.k < t.chunks ∧
    t.total = t.k * (headerLength t.template.packetType + 1440)

theorem transferOk_iff (t : Transfer) : TransferOk t ↔ 0 < t.k ∧ FragmentReady t := by
  unfold TransferOk FragmentReady headerLength
  tauto

theorem startTransfer_ready (hdr : Header) {data : Bytes} (h : data ≠ []) :
    FragmentReady (startTransfer hdr data) := by
  have hlen : 0 < data.length := List.length_pos_iff.2 h
  refine ⟨rfl, ?_, (Nat.zero_mul _).symm⟩
  simp only [startTransfer, chunkCount, maxChunk]
  omega

/-- The next chunk is not empty. -/
theorem FragmentReady.chunk_pos {t : Transfer} (h : FragmentReady t) : 1 ≤ (chunkOf t.data t.k).length := by
  obtain ⟨hchunks, hk, -⟩ := h
  rw [chunkOf_length]
  omega

/-- A chunk with another one after it is full. -/
theorem FragmentReady.chunk_full {t : Transfer} (h : FragmentReady t) (hmore : t.k + 1 < t.chunks) :
    (chunkOf t.data t.k).length = 1440 := by
  obtain ⟨hchunks, -, -⟩ := h
  rw [chunkOf_length]
  omega

theorem hdrEnc_length_ge (h : Header) : 10 ≤ (hdrEnc h).length := by
  rw [hdrEnc_length]
  unfold headerLength
  split <;> decide

/-- Byte 1 of a datagram is the whole sequence number of its header (D12). -/
theorem byteAt_one_hdrEnc (h : Header) (payload : Bytes) : byteAt (hdrEnc h ++ payload) 1 = h.sequenceNumber :=
  rfl

/-- A fragment's header carries `SEQ`, and has the length its template gives. -/
theorem fragmentHeader_stamp {t : Transfer} {seq : BitVec 4} {hdr : Header}
    (h : fragmentHeader t seq = some hdr) :
    hdr.sequenceNumber = seq.zeroExtend 8 ∧
      headerLength hdr.packetType = headerLength t.template.packetType := by
  simp only [fragmentHeader, chunkOffset_wrap, Option.some.injEq] at h
  subst h
  exact ⟨rfl, rfl⟩

/-- A datagram of the block: its size and its sequence byte are legal (R81, R86). -/
theorem fragment_datagramOk {t : Transfer} {seq : BitVec 4} {hdr : Header} (ht : FragmentReady t)
    (hseq : seq ≠ 0) (h : fragmentHeader t seq = some hdr) :
    DatagramOk (hdrEnc hdr ++ chunkOf t.data t.k) := by
  have hpos := ht.chunk_pos
  have hchunk := chunkOf_length t.data t.k
  have hmax := hdrEnc_length_le hdr
  have hmin := hdrEnc_length_ge hdr
  have hbyte : (byteAt (hdrEnc hdr ++ chunkOf t.data t.k) 1).toNat = seq.toNat := by
    rw [byteAt_one_hdrEnc, (fragmentHeader_stamp h).1]
    exact BitVec.toNat_setWidth_of_le (by decide)
  have hne : seq.toNat ≠ 0 := fun h0 => hseq (BitVec.eq_of_toNat_eq h0)
  have hlt := seq.isLt
  rw [DatagramOk, hbyte, List.length_append]
  omega

/-- A sent chunk with another one after it leaves the write between two of its fragments (R174). -/
theorem FragmentReady.next {t : Transfer} {seq : BitVec 4} {hdr : Header} (ht : FragmentReady t)
    (hmore : t.k + 1 < t.chunks) (h : fragmentHeader t seq = some hdr) :
    TransferOk { t with
      k := t.k + 1, total := t.total + (hdrEnc hdr ++ chunkOf t.data t.k).length } := by
  have hfull := ht.chunk_full hmore
  obtain ⟨hchunks, -, htotal⟩ := ht
  refine (transferOk_iff _).2 ⟨Nat.succ_pos _, hchunks, hmore, ?_⟩
  simp only [List.length_append, hdrEnc_length, (fragmentHeader_stamp h).2, hfull, htotal, Nat.succ_mul]

/-! ## The invariant, kept by each effect -/

theorem seqAdvance_ne_zero (v : BitVec 4) : seqAdvance v ≠ 0 := by
  revert v
  decide

section
variable {s : State} (h : s.Inv)
include h

theorem State.Inv.setInputs (v : List Input) : (s.setInputs v).Inv := { h with }

theorem State.Inv.setSeq {v : BitVec 4} (hv : v ≠ 0) : (s.setSeq v).Inv := { h with seq_ne_zero := hv }

theorem State.Inv.setInq {v : List Packet} (hv : ∀ p ∈ v, PacketOk p) : (s.setInq v).Inv :=
  { h with inq_ok := hv }

theorem State.Inv.setInflight {t : Transfer} (ht : TransferOk t) : (s.setInflight (some t)).Inv :=
  { h with inflight_ok := by rintro _ ⟨⟩; exact ht }

theorem State.Inv.finish {st : Status} (hst : st ≠ .addressResolutionError) (v : Value) :
    (Machine.finish st v s).Inv :=
  { h with
    inflight_ok := by rintro _ ⟨⟩
    result_ok := by rintro _ ⟨⟩; exact hst }

theorem State.Inv.handOver {d : Bytes} (hd : DatagramOk d) : (Machine.handOver d s).Inv := by
  have hfit : d.length ≤ sendbufSize := by
    obtain ⟨-, hmax, -, -⟩ := hd
    exact hmax.trans (by decide)
  refine { h with sendbuf_wf := overlay_wf hfit h.sendbuf_wf, txlog_ok := fun e he => ?_ }
  rw [handOver_txlog, List.mem_append, List.mem_singleton] at he
  obtain he | rfl := he
  · exact h.txlog_ok e he
  · exact ⟨rfl, hd⟩

theorem State.Inv.deliver (b : Bytes) : (Machine.deliver b s).Inv := by
  refine h.setInq fun p hp => ?_
  rw [List.mem_append, List.mem_singleton] at hp
  obtain hp | rfl := hp
  · exact h.inq_ok p hp
  · exact pktDec_packetOk b

theorem State.Inv.sendFragment {t : Transfer} {u : State} (ht : FragmentReady t)
    (hu : Machine.sendFragment t s = .next u) : u.Inv := by
  obtain ⟨hdr, d, hhdr, rfl, hcases⟩ := sendFragment_cases hu
  have hsent := h.handOver (fragment_datagramOk ht h.seq_ne_zero hhdr)
  have hadv := hsent.setSeq (seqAdvance_ne_zero s.seq)
  obtain ⟨e, -, rfl⟩ | ⟨-, hmore, rfl⟩ | ⟨-, -, rfl⟩ := hcases
  · exact hsent.finish (by decide) _
  · exact hadv.setInflight (ht.next hmore hhdr)
  · exact hadv.finish (by decide) _

theorem State.Inv.command {u : State} (hu : CommandEffect s u) : u.Inv := by
  cases hu with
  | ends st v hst => exact h.finish hst v
  | pops p rest hinq =>
    exact (h.setInq fun q hq => h.inq_ok q (hinq ▸ List.mem_cons_of_mem p hq)).finish (by decide) _
  | sends hdr data _ hdata hu => exact h.sendFragment (startTransfer_ready hdr hdata) hu

end

/-- Settles O56: a step is a delivery, a fragment, a command or idle, and each of these keeps the invariant. -/
theorem stepKeepsInvariant : Obligations.StepKeepsInvariant := by
  intro s u hinv h
  obtain ⟨b, rest, -, rfl⟩ | ⟨t, ht, ins, -, hu⟩ | ⟨c, rest, -, -, hu⟩ | ⟨-, ins, -, rfl⟩ := step_cases h
  · exact (hinv.setInputs rest).deliver b
  · have hready := ((transferOk_iff t).1 (hinv.inflight_ok t ht)).2
    exact (hinv.setInputs ins).sendFragment hready hu
  · exact (hinv.setInputs rest).command (runCommand_effect hu)
  · exact hinv.setInputs ins

end Sys2Proof.Machine

/-! The memory family: what a codec command leaves, that every step completes, and that neither a delivery nor
the bytes `SENDBUF` held have an effect on what the framer does (spec/20_memory.md). -/

namespace Sys2Proof.Machine

/-! ## The frame of the codec commands -/

/-- A codec command that completes has met an idle framer and has only ended (R56). -/
theorem codec_ends {i : Instr} {s u : State} (hi : Codec i = true) (h : exec i s = .next u) :
    s.inflight = none ∧ ∃ st v, u = finish st v s := by
  cases i with
  | flagsEnc _ | flagsDec _ | pixcfgEnc _ | pixcfgDec _ | idEnc _ | idDec _ | hdrEnc _ | hdrDec _ | pktDec _
  | msgDec _ _ =>
    obtain ⟨hidle, hk⟩ := whenIdle_next h
    cases hk
    exact ⟨hidle, _, _, rfl⟩
  | msgEnc msg =>
    obtain ⟨hidle, hk⟩ := whenIdle_next h
    split at hk <;> cases hk <;> exact ⟨hidle, _, _, rfl⟩
  | sliceSend _ _ | write _ | writeOffset _ _ | writeMessage _ | getIncoming => cases hi

/-- Settles O49: a codec command only ends, and ending a command of an idle framer writes `RESULT` alone. -/
theorem codecsWriteOnlyResult : Obligations.CodecsWriteOnlyResult := by
  intro s u i hi h
  obtain ⟨hidle, st, v, rfl⟩ := codec_ends hi h
  exact finish_idle hidle st v

/-! ## Every step completes -/

theorem whenIdle_completes {s : State} {k : Outcome} (h : s.inflight = none) (hk : ∃ u, k = .next u) :
    ∃ u, whenIdle s k = .next u := by
  rwa [whenIdle_idle h]

/-- With no write in progress every command completes: none faults and none is refused. -/
theorem exec_completes {s : State} (h : s.inflight = none) (i : Instr) : ∃ u, exec i s = .next u := by
  cases i with
  | flagsEnc _ | flagsDec _ | pixcfgEnc _ | pixcfgDec _ | idEnc _ | idDec _ | hdrEnc _ | hdrDec _ | pktDec _
  | msgDec _ _ => exact whenIdle_completes h ⟨_, rfl⟩
  | sliceSend _ _ | write _ | writeOffset _ _ => exact whenIdle_completes h (sliceSend_next _ _ s)
  | msgEnc _ | getIncoming =>
    refine whenIdle_completes h ?_
    split <;> exact ⟨_, rfl⟩
  | writeMessage msg =>
    refine whenIdle_completes h ?_
    split
    · exact ⟨_, rfl⟩
    · exact sliceSend_next _ _ s

theorem runCommand_completes {s : State} (h : s.inflight = none) (c : Command) :
    ∃ u, runCommand c s = .next u := by
  unfold runCommand
  split
  · exact exec_completes h _
  · exact ⟨_, rfl⟩

theorem framerStep_completes (s : State) : ∃ u, framerStep s = .next u := by
  unfold framerStep
  split
  · exact sendFragment_next _ s
  · exact ⟨_, rfl⟩

/-- Settles O55, by who moves in the step: a command is run only while idle, and a fragment never faults. -/
theorem stepAlwaysAnswersNext : Obligations.StepAlwaysAnswersNext := by
  intro s
  unfold step
  split
  · exact ⟨_, rfl⟩
  · exact framerStep_completes _
  · rename_i c rest _
    split
    · rename_i hidle
      exact runCommand_completes (s := s.setInputs rest) hidle c
    · exact sendFragment_next _ s
  · exact framerStep_completes s

/-! ## Differences that the framer does not read -/

/-- Two outcomes of one kind, with the same fault or refusal, or with next states that `R` relates. -/
inductive OutcomeRel (R : State → State → Prop) : Outcome → Outcome → Prop where
  | next {u v : State} (h : R u v) : OutcomeRel R (.next u) (.next v)
  | fault (f : Fault) : OutcomeRel R (.fault f) (.fault f)
  | refused (r : Refusal) : OutcomeRel R (.refused r) (.refused r)

/-- `R` relates states that agree in all that the framer reads, `INQ` apart, and every write of the framer keeps
them related. -/
structure Unread (R : State → State → Prop) : Prop where
  inflight {s v : State} (h : R s v) : v.inflight = s.inflight
  cfgPixcfg {s v : State} (h : R s v) : v.cfgPixcfg = s.cfgPixcfg
  cfgId {s v : State} (h : R s v) : v.cfgId = s.cfgId
  seq {s v : State} (h : R s v) : v.seq = s.seq
  nextOutcome {s v : State} (h : R s v) : nextOutcome v = nextOutcome s
  setSeq {s v : State} (h : R s v) (n : BitVec 4) : R (s.setSeq n) (v.setSeq n)
  setInflight {s v : State} (h : R s v) (t : Option Transfer) : R (s.setInflight t) (v.setInflight t)
  setResult {s v : State} (h : R s v) (r : Option Result) : R (s.setResult r) (v.setResult r)
  /-- A datagram laid over the start of `SENDBUF` and handed over (R36, R173). -/
  sent {s v : State} (h : R s v) (d : Bytes) (o : TxOutcome) :
    R (logTransmit d o (s.setSendbuf (d ++ s.sendbuf.drop d.length)))
      (logTransmit d o (v.setSendbuf (d ++ v.sendbuf.drop d.length)))

section
variable {R : State → State → Prop} (hR : Unread R) {s v : State} (h : R s v)
include hR h

theorem Unread.finish (st : Status) (x : Value) : R (Machine.finish st x s) (Machine.finish st x v) :=
  hR.setResult (hR.setInflight h none) _

theorem Unread.whenIdle {k l : Outcome} (hk : OutcomeRel R k l) :
    OutcomeRel R (Machine.whenIdle s k) (Machine.whenIdle v l) := by
  unfold Machine.whenIdle
  rw [hR.inflight h]
  cases s.inflight with
  | none => exact hk
  | some _ => exact .refused _

theorem Unread.fragmentSent (t : Transfer) (n : Nat) :
    OutcomeRel R (Machine.fragmentSent t n s) (Machine.fragmentSent t n v) := by
  have hadv := hR.setSeq h (seqAdvance s.seq)
  unfold Machine.fragmentSent
  rw [hR.seq h]
  by_cases hmore : t.k + 1 < t.chunks
  · rw [if_pos hmore, if_pos hmore]
    exact .next (hR.setInflight hadv _)
  · rw [if_neg hmore, if_neg hmore]
    exact .next (hR.finish hadv _ _)

/-- Both send the same datagram, since its header depends on `SEQ` alone, and meet the same answer. -/
theorem Unread.sendFragment (t : Transfer) :
    OutcomeRel R (Machine.sendFragment t s) (Machine.sendFragment t v) := by
  obtain ⟨hdr, d, hhdr, rfl, -, hs⟩ := sendFragment_spec t s
  obtain ⟨hdr', d', hhdr', rfl, -, hv⟩ := sendFragment_spec t v
  rw [hR.seq h, hhdr] at hhdr'
  cases hhdr'
  rw [hs, hv, hR.nextOutcome h]
  cases Machine.nextOutcome s with
  | err e => exact .next (hR.finish (hR.sent h _ _) _ _)
  | ok => exact hR.fragmentSent (hR.sent h _ _) t _

theorem Unread.sliceSend (hdr : Header) (data : Bytes) :
    OutcomeRel R (Machine.sliceSend hdr data s) (Machine.sliceSend hdr data v) := by
  unfold Machine.sliceSend
  split
  · exact .next (hR.finish h _ _)
  · exact hR.sendFragment h _

theorem Unread.writeTemplate (off : U32) (id : ID) :
    Machine.writeTemplate v off id = Machine.writeTemplate s off id := by
  unfold Machine.writeTemplate
  rw [hR.cfgPixcfg h]

/-- Every command but GET_INCOMING does the same from related states. -/
theorem Unread.exec {i : Instr} (hi : i ≠ .getIncoming) :
    OutcomeRel R (Machine.exec i s) (Machine.exec i v) := by
  cases i with
  | flagsEnc _ | flagsDec _ | pixcfgEnc _ | pixcfgDec _ | idEnc _ | idDec _ | hdrEnc _ | hdrDec _ | pktDec _
  | msgDec _ _ => exact hR.whenIdle h (.next (hR.finish h _ _))
  | sliceSend hdr data => exact hR.whenIdle h (hR.sliceSend h hdr data)
  | write _ | writeOffset _ _ =>
    refine hR.whenIdle h ?_
    rw [hR.writeTemplate h, hR.cfgId h]
    exact hR.sliceSend h _ _
  | msgEnc msg =>
    refine hR.whenIdle h ?_
    cases msgBody msg <;> exact .next (hR.finish h _ _)
  | writeMessage msg =>
    refine hR.whenIdle h ?_
    cases msgBody msg with
    | error e => exact .next (hR.finish h _ _)
    | ok body =>
      rw [hR.writeTemplate h]
      exact hR.sliceSend h _ body
  | getIncoming => exact absurd rfl hi

theorem Unread.framerStep : OutcomeRel R (Machine.framerStep s) (Machine.framerStep v) := by
  unfold Machine.framerStep
  rw [hR.inflight h]
  cases s.inflight with
  | none => exact .next h
  | some t => exact hR.sendFragment h t

end

/-! ## A packet delivered before -/

/-- The second state is the first after one more packet came to the tail of `INQ` (R228). -/
def Delivered (p : Packet) (s v : State) : Prop := v = { s with inq := s.inq ++ [p] }

theorem delivered_unread (p : Packet) : Unread (Delivered p) where
  inflight := by rintro s _ rfl; rfl
  cfgPixcfg := by rintro s _ rfl; rfl
  cfgId := by rintro s _ rfl; rfl
  seq := by rintro s _ rfl; rfl
  nextOutcome := by rintro s _ rfl; rfl
  setSeq := by rintro s _ rfl n; rfl
  setInflight := by rintro s _ rfl t; rfl
  setResult := by rintro s _ rfl r; rfl
  sent := by rintro s _ rfl d o; rfl

theorem OutcomeRel.eq_withPacket {p : Packet} {o o' : Outcome} (h : OutcomeRel (Delivered p) o o') :
    o' = withPacket p o := by
  cases h with
  | next h => exact congrArg _ h
  | fault _ | refused _ => rfl

/-- With a packet in the queue already, GET_INCOMING takes the same head. -/
theorem execGetIncoming_delivered {p : Packet} {s v : State} (h : Delivered p s v) (hq : s.inq ≠ []) :
    OutcomeRel (Delivered p) (execGetIncoming s) (execGetIncoming v) := by
  obtain ⟨q, rest, hinq⟩ := List.exists_cons_of_ne_nil hq
  refine (delivered_unread p).whenIdle h ?_
  have hv : v.inq = q :: (rest ++ [p]) := by rw [h, hinq, List.cons_append]
  rw [hinq, hv]
  subst h
  exact .next rfl

/-- Settles O39: no command but GET_INCOMING and no fragment reads `INQ`, and GET_INCOMING reads its head. -/
theorem deliveryDoesNotInterfere : Obligations.DeliveryDoesNotInterfere := by
  intro s p
  have hR := delivered_unread p
  refine ⟨fun i hi => ?_, fun hq => ?_, fun t => ?_⟩
  · exact (hR.exec rfl hi).eq_withPacket
  · exact (execGetIncoming_delivered rfl hq).eq_withPacket
  · exact (hR.sendFragment rfl t).eq_withPacket

/-! ## What `SENDBUF` held before -/

/-- The states differ in `SENDBUF` at most. -/
def SameButSendbuf (s v : State) : Prop := ∃ m, v = { s with sendbuf := m }

theorem sameButSendbuf_unread : Unread SameButSendbuf where
  inflight := by rintro s _ ⟨m, rfl⟩; rfl
  cfgPixcfg := by rintro s _ ⟨m, rfl⟩; rfl
  cfgId := by rintro s _ ⟨m, rfl⟩; rfl
  seq := by rintro s _ ⟨m, rfl⟩; rfl
  nextOutcome := by rintro s _ ⟨m, rfl⟩; rfl
  setSeq := by rintro s _ ⟨m, rfl⟩ n; exact ⟨m, rfl⟩
  setInflight := by rintro s _ ⟨m, rfl⟩ t; exact ⟨m, rfl⟩
  setResult := by rintro s _ ⟨m, rfl⟩ r; exact ⟨m, rfl⟩
  sent := by rintro s _ ⟨m, rfl⟩ d o; exact ⟨_, rfl⟩

theorem OutcomeRel.next_sendbuf {o o' : Outcome} {u : State} (h : OutcomeRel SameButSendbuf o o')
    (ho : o = .next u) : ∃ m, o' = .next { u with sendbuf := m } := by
  subst ho
  obtain ⟨m, rfl⟩ := h
  exact ⟨m, rfl⟩

section
variable {s v : State} (h : SameButSendbuf s v)
include h

theorem SameButSendbuf.setInputs (ins : List Input) : SameButSendbuf (s.setInputs ins) (v.setInputs ins) := by
  obtain ⟨m, rfl⟩ := h
  exact ⟨m, rfl⟩

theorem SameButSendbuf.setInq (q : List Packet) : SameButSendbuf (s.setInq q) (v.setInq q) := by
  obtain ⟨m, rfl⟩ := h
  exact ⟨m, rfl⟩

theorem SameButSendbuf.deliver (b : Bytes) : SameButSendbuf (Machine.deliver b s) (Machine.deliver b v) := by
  obtain ⟨m, rfl⟩ := h
  exact ⟨m, rfl⟩

theorem SameButSendbuf.execGetIncoming :
    OutcomeRel SameButSendbuf (Machine.execGetIncoming s) (Machine.execGetIncoming v) := by
  have hinq : v.inq = s.inq := by obtain ⟨m, rfl⟩ := h; rfl
  refine sameButSendbuf_unread.whenIdle h ?_
  rw [hinq]
  cases s.inq with
  | nil => exact .next (sameButSendbuf_unread.finish h _ _)
  | cons p rest => exact .next (sameButSendbuf_unread.finish (h.setInq rest) _ _)

theorem SameButSendbuf.exec (i : Instr) : OutcomeRel SameButSendbuf (Machine.exec i s) (Machine.exec i v) := by
  by_cases hi : i = .getIncoming
  · subst hi
    exact h.execGetIncoming
  · exact sameButSendbuf_unread.exec h hi

theorem SameButSendbuf.runCommand (c : Command) :
    OutcomeRel SameButSendbuf (Machine.runCommand c s) (Machine.runCommand c v) := by
  unfold Machine.runCommand
  cases decode c with
  | ok i => exact h.exec i
  | error e => exact .next (sameButSendbuf_unread.finish h _ _)

/-- A step from states that differ in `SENDBUF` at most, by who moves in it. -/
theorem SameButSendbuf.step : OutcomeRel SameButSendbuf (Machine.step s) (Machine.step v) := by
  have hinputs : v.inputs = s.inputs := by obtain ⟨m, rfl⟩ := h; rfl
  unfold Machine.step
  rw [hinputs, sameButSendbuf_unread.inflight h]
  rcases s.inputs with _ | ⟨c | b | _, rest⟩
  case nil => exact sameButSendbuf_unread.framerStep h
  case cons.command =>
    cases s.inflight with
    | none => exact (h.setInputs rest).runCommand c
    | some t => exact sameButSendbuf_unread.sendFragment h t
  case cons.datagram => exact .next ((h.setInputs rest).deliver b)
  case cons.quiet => exact sameButSendbuf_unread.framerStep (h.setInputs rest)

end

/-- Settles O52: nothing reads `SENDBUF` back; a fragment lays its datagram over it before handing that over. -/
theorem staleSendbufNeverSent : Obligations.StaleSendbufNeverSent := by
  intro s u m
  have h : SameButSendbuf s { s with sendbuf := m } := ⟨m, rfl⟩
  exact ⟨fun i => (h.exec i).next_sendbuf, fun t => (sameButSendbuf_unread.sendFragment h t).next_sendbuf,
    h.step.next_sendbuf⟩

end Sys2Proof.Machine

/-! The encoding family: the length of a header on the wire, the command decoder and encoder undoing each other,
and what an unassigned opcode ends with (spec/30_encoding.md). -/

namespace Sys2Proof.Machine

/-! ## The header on the wire -/

theorem bigEndian_be32 (v : U32) : bigEndian (be32 v) = v.toNat := by
  rw [be32_eq]
  simp only [bigEndian, BitVec.toNat_ofNat, List.length_cons, List.length_nil]
  omega

/-- Behind the ten bytes that every header has, an encoded header is its timecode alone (R83). -/
theorem hdrEnc_drop_ten (h : Header) : (hdrEnc h).drop 10 = timecodeBytes h := rfl

/-- The timecode bytes of a header that has the flag and a value. -/
theorem timecodeBytes_of_some {h : Header} {x : U32} (hflag : h.packetType.timecode = true)
    (hx : h.timecode = some x) : timecodeBytes h = be32 x := by
  rw [timecodeBytes, if_pos hflag, hx, Option.getD_some]

/-- The header length of a flags byte is decided by its bit 4 (R84). -/
theorem headerLength_flagsDec (b : Byte) :
    headerLength (flagsDec b) = if b.getLsbD 4 then 14 else 10 := rfl

theorem isShort_eq_false {data : Bytes} (h : ¬ ShortInput data) : isShort data = false :=
  Bool.eq_false_iff.2 fun hs => h ((isShort_iff data).1 hs)

theorem hdrDec_not_short {data : Bytes} (h : ¬ ShortInput data) :
    hdrDec data = (headerFields data, headerLength (flagsDec (byteAt data 0)), false) := by
  simp [hdrDec, isShort_eq_false h]

/-- Settles O13: the encoder's length and the decoder's are the length that the timecode flag gives. -/
theorem headerLengthByTimecode : Obligations.HeaderLengthByTimecode := by
  refine ⟨hdrEnc_length, fun h x hflag hx => ?_, fun data hlong => ?_⟩
  · rw [hdrEnc_drop_ten, timecodeBytes_of_some hflag hx, bigEndian_be32]
  · rw [hdrDec_not_short hlong, headerLength_flagsDec]

/-! ## Commands -/

/-- Settles O35: the offset of the template of WRITE is 0. -/
theorem writeIsWriteOffsetZero : Obligations.WriteIsWriteOffsetZero := fun _ _ => rfl

/-- Settles O40, by running the decoder on each word. -/
theorem opcodesDecode : Obligations.OpcodesDecode := by
  unfold Obligations.OpcodesDecode
  decide

/-- Settles O41, by cases on the instruction: its opcode selects the operand lines that it was encoded into. -/
theorem commandRoundTrip : Obligations.CommandRoundTrip := by
  intro i
  cases i with
  | flagsEnc r => exact Laws.Encoding.flagsEnc r
  | flagsDec b => exact Laws.Encoding.flagsDec b
  | pixcfgEnc r => exact Laws.Encoding.pixcfgEnc r
  | pixcfgDec b => exact Laws.Encoding.pixcfgDec b
  | idEnc r => exact Laws.Encoding.idEnc r
  | idDec b => exact Laws.Encoding.idDec b
  | hdrEnc r => exact Laws.Encoding.hdrEnc r
  | hdrDec data => exact Laws.Encoding.hdrDec data
  | pktDec data => exact Laws.Encoding.pktDec data
  | sliceSend hdr data => exact Laws.Encoding.sliceSend hdr data
  | msgEnc msg => exact Laws.Encoding.msgEnc msg
  | msgDec id data => exact Laws.Encoding.msgDec id data
  | write data => exact Laws.Encoding.write data
  | writeOffset data offset => exact Laws.Encoding.writeOffset data offset
  | writeMessage msg => exact Laws.Encoding.writeMessage msg
  | getIncoming => exact Laws.Encoding.getIncoming

/-! ## Unassigned opcodes -/

/-- An opcode whose number is that of an opcode of the table is in the table. -/
theorem mem_assignedOpcodes_of_toNat {op : Byte} (h : op.toNat ∈ assignedOpcodes.map BitVec.toNat) :
    op ∈ assignedOpcodes :=
  (List.mem_map_of_injective BitVec.toNat_injective).1 h

/-- The decoder rejects every opcode outside the table, whatever the operand lines hold (R90). -/
theorem decode_unassigned {op : Byte} (h : op ∉ assignedOpcodes) (o : Operands) :
    decode { op := op, operands := o } = .error ⟨op⟩ := by
  unfold decode
  split
  case h_17 => rfl
  all_goals
    rename_i hop
    refine absurd (mem_assignedOpcodes_of_toNat ?_) h
    rw [hop]
    decide

/-- A step of an idle framer that is presented a command runs it (R35). -/
theorem step_command {s : State} {c : Command} {rest : List Input} (hidle : s.inflight = none)
    (hin : s.inputs = .command c :: rest) : step s = runCommand c (s.setInputs rest) := by
  simp only [step, hin, hidle]

/-- An opcode outside the table only ends its command, with the opcode as info (R246). -/
theorem runCommand_unassigned {op : Byte} (h : op ∉ assignedOpcodes) (o : Operands) (s : State) :
    runCommand { op := op, operands := o } s = .next (finish .illegalCommand (.opcodeInfo op) s) := by
  rw [runCommand, decode_unassigned h]
  rfl

/-- The numbers whose bytes are in a list without duplicates are the numbers of the bytes of that list. -/
theorem filter_mem_perm {bs : List Byte} (h : bs.Nodup) :
    ((List.range 256).filter fun n => decide (BitVec.ofNat 8 n ∈ bs)).Perm (bs.map BitVec.toNat) := by
  rw [List.perm_ext_iff_of_nodup (List.nodup_range.filter _) (h.map BitVec.toNat_injective)]
  intro n
  simp only [List.mem_filter, List.mem_range, decide_eq_true_eq, List.mem_map]
  constructor
  · rintro ⟨hn, hmem⟩
    exact ⟨_, hmem, (BitVec.toNat_ofNat n 8).trans (Nat.mod_eq_of_lt hn)⟩
  · rintro ⟨b, hb, rfl⟩
    rw [BitVec.ofNat_toNat, BitVec.setWidth_eq]
    exact ⟨b.isLt, hb⟩

/-- A list of bytes without duplicates leaves out all of the 256 but its own length. -/
theorem length_filter_notMem {bs : List Byte} (h : bs.Nodup) :
    ((List.range 256).filter fun n => decide (BitVec.ofNat 8 n ∉ bs)).length = 256 - bs.length := by
  have hsplit := List.length_eq_length_filter_add (l := List.range 256) fun n => decide (BitVec.ofNat 8 n ∈ bs)
  rw [(filter_mem_perm h).length_eq, List.length_map, List.length_range] at hsplit
  simp only [decide_not]
  omega

/-- Settles O42: the table leaves 240 opcodes, and each of them is rejected before anything is written. -/
theorem unassignedOpcodesIllegal : Obligations.UnassignedOpcodesIllegal := by
  have hnodup : assignedOpcodes.Nodup := by decide
  refine ⟨length_filter_notMem hnodup, fun s op o rest hop hidle hin => ?_⟩
  rw [step_command hidle hin, runCommand_unassigned hop, finish_idle (s := s.setInputs rest) hidle]
  rfl

end Sys2Proof.Machine

/-! The field codec family: the sequence counter, and the six codecs of one byte field. The layout of each byte, said
once, gives both directions and the laws between them (spec/40_field_codecs.md). -/

namespace Sys2Proof.Machine

/-! ## The sequence counter -/

theorem seqAdvance_of_ne_max {v : BitVec 4} (h : v ≠ 15) : seqAdvance v = v + 1 := by
  have hlt : ¬ seqMax ≤ v := by bv_omega
  exact if_neg hlt

/-- The advance as arithmetic on the numbers 1 to 15 (R116). -/
theorem seqAdvance_toNat {v : BitVec 4} (h : v ≠ 0) : (seqAdvance v).toNat = v.toNat % 15 + 1 := by
  by_cases hmax : v = 15
  · subst hmax
    rfl
  · rw [seqAdvance_of_ne_max hmax]
    bv_omega

/-- The counter after `n` advances is the stamp of fragment `n` (R179). -/
theorem seqAdvance_iterate_toNat {v : BitVec 4} (h : v ≠ 0) (n : Nat) :
    (seqAdvance^[n] v).toNat = sequenceAt v n := by
  induction n generalizing v with
  | zero =>
    rw [Function.iterate_zero_apply, sequenceAt]
    bv_omega
  | succ n ih =>
    rw [Function.iterate_succ_apply, ih (seqAdvance_ne_zero v), sequenceAt, sequenceAt, seqAdvance_toNat h]
    bv_omega

/-- Settles O10: `n` advances add `n` modulo 15 on the numbers 1 to 15. -/
theorem sequencePeriod : Obligations.SequencePeriod := by
  refine ⟨fun s hs => BitVec.eq_of_toNat_eq ?_, fun n _ => ?_⟩
  · rw [seqAdvance_iterate_toNat hs, sequenceAt]
    bv_omega
  · rw [seqAdvance_iterate_toNat (by decide), sequenceAt]
    simp

/-- What a step does to the history and the counter together: nothing to either; or one entry for a datagram
handed over, and one advance exactly when the transport answered it with `Ok` (R116, R174, R177). -/
def CounterEffect (s u : State) : Prop :=
  (u.txlog = s.txlog ∧ u.seq = s.seq) ∨
  ∃ e, u.txlog = s.txlog ++ [e] ∧ u.seq = if e.outcome = .ok then seqAdvance s.seq else s.seq

theorem sendFragment_counter {t : Transfer} {s u : State} (h : sendFragment t s = .next u) :
    CounterEffect s u := by
  obtain ⟨hdr, d, -, -, ⟨e, ho, rfl⟩ | ⟨ho, -, rfl⟩ | ⟨ho, -, rfl⟩⟩ := sendFragment_cases h <;>
    refine .inr ⟨_, rfl, ?_⟩ <;> rw [ho] <;> rfl

theorem CommandEffect.counter {s u : State} (h : CommandEffect s u) : CounterEffect s u := by
  cases h with
  | ends | pops => exact .inl ⟨rfl, rfl⟩
  | sends _ _ _ _ hu => exact sendFragment_counter hu

theorem step_counter {s u : State} (h : step s = .next u) : CounterEffect s u := by
  obtain ⟨b, rest, -, rfl⟩ | ⟨t, -, ins, -, hu⟩ | ⟨c, rest, -, -, hu⟩ | ⟨-, ins, -, rfl⟩ := step_cases h
  · exact .inl ⟨rfl, rfl⟩
  · exact sendFragment_counter (s := s.setInputs ins) hu
  · exact (runCommand_effect (s := s.setInputs rest) hu).counter
  · exact .inl ⟨rfl, rfl⟩

/-- Where the history grew by one entry, the outcome of that entry decides the counter. -/
theorem CounterEffect.seq_of_entry {s u : State} (h : CounterEffect s u) {e : TxEntry}
    (he : u.txlog = s.txlog ++ [e]) : u.seq = if e.outcome = .ok then seqAdvance s.seq else s.seq := by
  obtain ⟨hlog, -⟩ | ⟨e', hlog, hseq⟩ := h
  · simp [hlog] at he
  · obtain rfl : e' = e := by simpa [hlog] using he
    exact hseq

/-- Where no datagram was answered with `Ok`, the counter is as it was. -/
theorem CounterEffect.seq_of_no_ok {s u : State} (h : CounterEffect s u)
    (hno : ∀ e, u.txlog = s.txlog ++ [e] → e.outcome ≠ .ok) : u.seq = s.seq := by
  obtain ⟨-, hseq⟩ | ⟨e, hlog, hseq⟩ := h
  · exact hseq
  · rw [hseq, if_neg (hno e hlog)]

/-- Settles O11, by what a step does to the history and the counter together. -/
theorem sequenceAdvance : Obligations.SequenceAdvance := by
  refine ⟨rfl, fun _ => seqAdvance_of_ne_max, seqAdvance_ne_zero, fun s u h => ⟨fun e he hok => ?_, ?_⟩⟩
  · rw [(step_counter h).seq_of_entry he, if_pos hok]
  · exact (step_counter h).seq_of_no_ok

/-! ## The codec commands and the fields of a byte -/

/-- A codec command of an idle framer answers its value and leaves the rest of the state (R56). -/
theorem answer_idle {s : State} (h : s.inflight = none) (v : Value) :
    whenIdle s (retOk v s) = .next (okWith v s) := by
  rw [whenIdle_idle h, retOk, finish_idle h]
  rfl

@[simp] theorem flagBit_getElem (f : Bool) (bit : Byte) (i : Nat) (h : i < 8) :
    (flagBit f bit)[i] = (f && bit[i]) := by
  cases f <;> simp [flagBit]

/-- A mask that has every bit of a field keeps the field. -/
theorem extractLsb'_and_keep {b m : Byte} {a n : Nat} (h : m.extractLsb' a n = BitVec.allOnes n) :
    (b &&& m).extractLsb' a n = b.extractLsb' a n := by
  rw [BitVec.extractLsb'_and, h, BitVec.and_allOnes]

/-- A mask that has no bit of a field clears the field. -/
theorem extractLsb'_and_clear {b m : Byte} {a n : Nat} (h : m.extractLsb' a n = 0) :
    (b &&& m).extractLsb' a n = 0 := by
  rw [BitVec.extractLsb'_and, h]
  exact BitVec.and_zero

/-- Bytes with one field the same agree in every bit of it. -/
theorem getLsbD_eq_of_field_eq {b c : Byte} {a n : Nat} (h : b.extractLsb' a n = c.extractLsb' a n) {i : Nat}
    (hlow : a ≤ i) (hhigh : i < a + n) : b.getLsbD i = c.getLsbD i := by
  have hbit := congrArg (·.getLsbD (i - a)) h
  have hlt : i - a < n := by omega
  simpa only [BitVec.getLsbD_extractLsb', hlt, decide_true, Bool.true_and, Nat.add_sub_cancel' hlow] using hbit

/-! ## The flags byte -/

/-- The byte `b` lays out the packet type `r` by R71, with bit 5 clear (D10). -/
structure FlagsLayout (b : Byte) (r : PacketType) : Prop where
  version : b.extractLsb' 6 2 = r.version
  spare : b.getLsbD 5 = false
  timecode : b.getLsbD 4 = r.timecode
  storage : b.getLsbD 3 = r.storage
  reply : b.getLsbD 2 = r.reply
  query : b.getLsbD 1 = r.query
  push : b.getLsbD 0 = r.push

theorem flagsEnc_layout (r : PacketType) : FlagsLayout (flagsEnc r) r where
  version := by
    refine BitVec.eq_of_getLsbD_eq fun i hi => ?_
    obtain rfl | rfl : i = 0 ∨ i = 1 := by omega
    all_goals simp [flagsEnc]
  spare := by simp [flagsEnc]
  timecode := by simp [flagsEnc]
  storage := by simp [flagsEnc]
  reply := by simp [flagsEnc]
  query := by simp [flagsEnc]
  push := by simp [flagsEnc]

/-- The layout determines the byte. -/
theorem FlagsLayout.unique {b c : Byte} {r : PacketType} (hb : FlagsLayout b r) (hc : FlagsLayout c r) :
    b = c := by
  refine BitVec.eq_of_getLsbD_eq fun i hi => ?_
  obtain hversion | rfl | rfl | rfl | rfl | rfl | rfl :
    6 ≤ i ∨ i = 0 ∨ i = 1 ∨ i = 2 ∨ i = 3 ∨ i = 4 ∨ i = 5 := by omega
  · exact getLsbD_eq_of_field_eq (hb.version.trans hc.version.symm) hversion hi
  · exact hb.push.trans hc.push.symm
  · exact hb.query.trans hc.query.symm
  · exact hb.reply.trans hc.reply.symm
  · exact hb.storage.trans hc.storage.symm
  · exact hb.timecode.trans hc.timecode.symm
  · exact hb.spare.trans hc.spare.symm

/-- Decoding a laid out packet type gives it back, but for the version bits 00 (D7). -/
theorem FlagsLayout.flagsDec {b : Byte} {r : PacketType} (h : FlagsLayout b r) :
    Machine.flagsDec b = { r with version := decodeVersion version0Decode r.version } := by
  simp only [Machine.flagsDec, h.version, h.timecode, h.storage, h.reply, h.query, h.push]

theorem decodeVersion_eq (v : BitVec 2) : decodeVersion version0Decode v = if v = 0 then 1 else v := rfl

/-- The decoder reads every bit but bit 5 (D10). -/
theorem flagsDec_flip_spare (b : Byte) : flagsDec (b ^^^ 0x20) = flagsDec b := by
  simp [flagsDec, BitVec.extractLsb'_xor]

theorem flagsDec_flagsEnc {r : PacketType} (h : r.version ≠ 0) : flagsDec (flagsEnc r) = r := by
  rw [(flagsEnc_layout r).flagsDec, decodeVersion_eq, if_neg h]

/-- The byte that a decoded flags byte is encoded to (R117). -/
theorem flagsLayout_flagsDec (b : Byte) :
    FlagsLayout (if b.extractLsb' 6 2 = 0 then (b &&& 0xDF) ||| 0x40 else b &&& 0xDF) (flagsDec b) where
  version := by
    simp only [flagsDec, decodeVersion_eq]
    split
    · rename_i hzero
      rw [BitVec.extractLsb'_or, extractLsb'_and_keep rfl, hzero]
      rfl
    · rw [extractLsb'_and_keep rfl]
  spare := by split <;> simp
  timecode := by split <;> simp [flagsDec]
  storage := by split <;> simp [flagsDec]
  reply := by split <;> simp [flagsDec]
  query := by split <;> simp [flagsDec]
  push := by split <;> simp [flagsDec]

/-- Settles O1, by the layout of an encoded packet type. -/
theorem flagsEncodeBits : Obligations.FlagsEncodeBits := by
  refine ⟨fun _ => rfl, fun s r hidle => ⟨flagsEnc r, answer_idle hidle _, ?_⟩⟩
  have h := flagsEnc_layout r
  refine ⟨h.version, h.spare, h.timecode, h.storage, h.reply, h.query, h.push, fun hzero => ?_⟩
  rw [h.flagsDec, decodeVersion_eq, if_pos hzero]

/-- Settles O2: the decoder takes each field from its bits, and reads none from bit 5. -/
theorem flagsDecodeFields : Obligations.FlagsDecodeFields := by
  refine ⟨fun _ => rfl, fun s b hidle => ⟨flagsDec b, answer_idle hidle _, ?_⟩⟩
  refine ⟨decodeVersion_eq _, rfl, rfl, rfl, rfl, rfl, ?_⟩
  simp only [exec, execFlagsDec, flagsDec_flip_spare]

/-- Settles O3: the layout determines the byte, and the byte the packet type. -/
theorem flagsRoundTrip : Obligations.FlagsRoundTrip := by
  refine ⟨fun r hr => flagsDec_flagsEnc ?_, fun b => (flagsEnc_layout _).unique (flagsLayout_flagsDec b)⟩
  rcases hr with h | h | h <;> rw [h] <;> decide

/-! ## The pixel config byte -/

/-- The code of a data type in its field of three bits (R75, R76). -/
def dataTypeField (t : DataType) : BitVec 3 := (dataTypeCode t).setWidth 3

/-- The code of a data size in its field of three bits (R75, R77). -/
def dataSizeField (z : DataSize) : BitVec 3 := (dataSizeCode z).setWidth 3

theorem dataTypeCode_eq (t : DataType) : dataTypeCode t = (dataTypeField t).setWidth 8 := by
  cases t <;> rfl

theorem dataSizeCode_eq (z : DataSize) : dataSizeCode z = (dataSizeField z).setWidth 8 := by
  cases z <;> rfl

theorem dataTypeOf_dataTypeField (t : DataType) : dataTypeOf (dataTypeField t) = t := by
  cases t <;> rfl

theorem dataSizeOf_dataSizeField (z : DataSize) : dataSizeOf (dataSizeField z) = z := by
  cases z <;> rfl

/-- The spare type codes 5, 6, 7 are read as `Undefined`, of code 0 (R76). -/
theorem dataTypeField_dataTypeOf (c : BitVec 3) :
    dataTypeField (dataTypeOf c) = if c.toNat ≤ 4 then c else 0 := by
  revert c
  decide

/-- The spare size code 7 is read as `Undefined`, of code 0 (R77). -/
theorem dataSizeField_dataSizeOf (c : BitVec 3) :
    dataSizeField (dataSizeOf c) = if c.toNat ≤ 6 then c else 0 := by
  revert c
  decide

/-- The byte `b` lays out the pixel config `r` by R75, with bit 6 clear (D11). -/
structure PixcfgLayout (b : Byte) (r : PixelConfig) : Prop where
  customerDefined : b.getLsbD 7 = r.customerDefined
  spare : b.getLsbD 6 = false
  dataType : b.extractLsb' 3 3 = dataTypeField r.dataType
  dataSize : b.extractLsb' 0 3 = dataSizeField r.dataSize

theorem pixcfgEnc_layout (r : PixelConfig) : PixcfgLayout (pixcfgEnc r) r where
  customerDefined := by simp [pixcfgEnc, dataTypeCode_eq, dataSizeCode_eq]
  spare := by simp [pixcfgEnc, dataTypeCode_eq, dataSizeCode_eq]
  dataType := by
    refine BitVec.eq_of_getLsbD_eq fun i hi => ?_
    obtain rfl | rfl | rfl : i = 0 ∨ i = 1 ∨ i = 2 := by omega
    all_goals simp [pixcfgEnc, dataTypeCode_eq, dataSizeCode_eq]
  dataSize := by
    refine BitVec.eq_of_getLsbD_eq fun i hi => ?_
    obtain rfl | rfl | rfl : i = 0 ∨ i = 1 ∨ i = 2 := by omega
    all_goals simp [pixcfgEnc, dataTypeCode_eq, dataSizeCode_eq]

/-- The layout determines the byte. -/
theorem PixcfgLayout.unique {b c : Byte} {r : PixelConfig} (hb : PixcfgLayout b r) (hc : PixcfgLayout c r) :
    b = c := by
  refine BitVec.eq_of_getLsbD_eq fun i hi => ?_
  obtain hsize | ⟨hlow, hhigh⟩ | rfl | rfl : i < 3 ∨ (3 ≤ i ∧ i < 6) ∨ i = 6 ∨ i = 7 := by omega
  · exact getLsbD_eq_of_field_eq (hb.dataSize.trans hc.dataSize.symm) (Nat.zero_le i) hsize
  · exact getLsbD_eq_of_field_eq (hb.dataType.trans hc.dataType.symm) hlow hhigh
  · exact hb.spare.trans hc.spare.symm
  · exact hb.customerDefined.trans hc.customerDefined.symm

/-- Decoding a laid out pixel config gives it back. -/
theorem PixcfgLayout.pixcfgDec {b : Byte} {r : PixelConfig} (h : PixcfgLayout b r) :
    Machine.pixcfgDec b = r := by
  simp only [Machine.pixcfgDec, h.customerDefined, h.dataType, h.dataSize, dataTypeOf_dataTypeField,
    dataSizeOf_dataSizeField]

/-- The decoder reads every bit but bit 6 (D11). -/
theorem pixcfgDec_flip_spare (b : Byte) : pixcfgDec (b ^^^ 0x40) = pixcfgDec b := by
  simp [pixcfgDec, BitVec.extractLsb'_xor]

/-- The byte that a decoded pixel config byte is encoded to (R118). -/
theorem pixcfgLayout_pixcfgDec (b : Byte) :
    PixcfgLayout ((b &&& 0xBF) &&& (if (b.extractLsb' 3 3).toNat ≤ 4 then 0xFF else 0xC7)
      &&& (if (b.extractLsb' 0 3).toNat ≤ 6 then 0xFF else 0xF8)) (pixcfgDec b) where
  customerDefined := by split_ifs <;> simp [pixcfgDec]
  spare := by simp
  dataType := by
    rw [extractLsb'_and_keep (by split <;> rfl), pixcfgDec, dataTypeField_dataTypeOf]
    split
    · rw [extractLsb'_and_keep rfl, extractLsb'_and_keep rfl]
    · rw [extractLsb'_and_clear rfl]
  dataSize := by
    rw [pixcfgDec, dataSizeField_dataSizeOf]
    by_cases hcode : (b.extractLsb' 0 3).toNat ≤ 6
    · rw [if_pos hcode, if_pos hcode, extractLsb'_and_keep rfl, extractLsb'_and_keep (by split <;> rfl),
        extractLsb'_and_keep rfl]
    · rw [if_neg hcode, if_neg hcode, extractLsb'_and_clear rfl]

/-- Settles O4, by the layout of an encoded pixel config and the code of each type and each size. -/
theorem pixcfgEncodeBits : Obligations.PixcfgEncodeBits := by
  refine ⟨fun _ => rfl, fun s r hidle => ⟨pixcfgEnc r, answer_idle hidle _, ?_⟩⟩
  have h := pixcfgEnc_layout r
  refine ⟨h.customerDefined, h.spare, ?_, ?_⟩
  · rw [h.dataType]
    cases r.dataType <;> rfl
  · rw [h.dataSize]
    cases r.dataSize <;> rfl

/-- Settles O5: the decoder takes each field from its bits, by the codes, and reads none from bit 6. -/
theorem pixcfgDecodeFields : Obligations.PixcfgDecodeFields := by
  refine ⟨fun _ => rfl, fun s b hidle => ⟨pixcfgDec b, answer_idle hidle _, rfl, ?_, ?_, ?_⟩⟩
  · change dataTypeOf (b.extractLsb' 3 3) = _
    generalize b.extractLsb' 3 3 = c
    revert c
    decide
  · change dataSizeOf (b.extractLsb' 0 3) = _
    generalize b.extractLsb' 0 3 = c
    revert c
    decide
  · simp only [exec, execPixcfgDec, pixcfgDec_flip_spare]

/-- Settles O6: the layout determines the byte, and the byte the pixel config. -/
theorem pixcfgRoundTrip : Obligations.PixcfgRoundTrip :=
  ⟨fun r => (pixcfgEnc_layout r).pixcfgDec, fun b => (pixcfgEnc_layout _).unique (pixcfgLayout_pixcfgDec b)⟩

/-! ## The ID byte -/

/-- The canonical bytes are the complement of `CUSTOM_RANGE` (R79). -/
theorem inCustomRange_iff (v : Byte) : inCustomRange v = true ↔ v ∉ canonicalBytes := by
  simp [inCustomRange, canonicalBytes, and_assoc]

/-- A custom value that is a canonical byte is clamped to the byte of Default (R80). -/
theorem idEnc_custom (v : Byte) : idEnc (.custom v) = if v ∈ canonicalBytes then 1 else v := by
  simp only [idEnc, inCustomRange_iff, ite_not]

theorem idDec_of_notMem {b : Byte} (h : b ∉ canonicalBytes) : idDec b = .custom b := by
  simp only [canonicalBytes, List.mem_cons, List.not_mem_nil, or_false, not_or] at h
  obtain ⟨hreserved, hdefault, hcontrol, hconfig, hstatus, hdmx, hbroadcast⟩ := h
  rw [idDec, if_neg hreserved, if_neg hdefault, if_neg hcontrol, if_neg hconfig, if_neg hstatus, if_neg hdmx,
    if_neg hbroadcast]

theorem idEnc_idDec (b : Byte) : idEnc (idDec b) = b := by
  by_cases hb : b ∈ canonicalBytes
  · have hcanonical : ∀ c ∈ canonicalBytes, idEnc (idDec c) = c := by decide
    exact hcanonical b hb
  · rw [idDec_of_notMem hb, idEnc_custom, if_neg hb]

/-- Settles O7: each canonical ID by its byte, a custom one by the clamp. -/
theorem idEncodeBytes : Obligations.IdEncodeBytes := by
  refine ⟨fun _ => rfl, fun s r hidle => ?_⟩
  cases r with
  | custom v =>
    dsimp only
    rw [← idEnc_custom]
    exact answer_idle hidle _
  | reserved | default | control | config | status | dmx | broadcast => exact answer_idle hidle _

/-- Settles O8: the seven canonical bytes one by one, and every other byte by the decoder's last branch. -/
theorem idDecodeTotal : Obligations.IdDecodeTotal := by
  refine ⟨fun _ => rfl, fun s hidle => ?_⟩
  have hdec (b : Byte) : exec (.idDec b) s = .next (okWith (.id (idDec b)) s) := answer_idle hidle _
  refine ⟨hdec 0, hdec 1, hdec 246, hdec 250, hdec 251, hdec 254, hdec 255, fun b hb => ?_⟩
  rw [hdec, idDec_of_notMem hb]

/-- Settles O9, by cases on whether the byte is canonical. -/
theorem idRoundTrip : Obligations.IdRoundTrip := by
  refine ⟨idEnc_idDec, fun i hi => ?_, fun v hv => ?_, fun v hv => ?_⟩
  · cases i with
    | custom v => exact absurd rfl (hi v)
    | reserved | default | control | config | status | dmx | broadcast => rfl
  · rw [idEnc_custom, if_neg hv, idDec_of_notMem hv]
  · rw [idEnc_custom, if_pos hv]
    rfl

end Sys2Proof.Machine

/-! The header codec family: where an encoded header stands in a string, what the decoders read there, and the round
trip between them (spec/41_header_codec.md). -/

namespace Sys2Proof.Machine

/-! ## The encoded header -/

/-- A header with its words as arithmetic (R140). -/
theorem hdrEnc_eq (h : Header) : hdrEnc h =
    [flagsEnc h.packetType, h.sequenceNumber, pixcfgEnc h.pixelConfig, idEnc h.id,
      BitVec.ofNat 8 (h.offset.toNat / 2 ^ 24), BitVec.ofNat 8 (h.offset.toNat / 2 ^ 16),
      BitVec.ofNat 8 (h.offset.toNat / 2 ^ 8), BitVec.ofNat 8 h.offset.toNat,
      BitVec.ofNat 8 (h.length.toNat / 2 ^ 8), BitVec.ofNat 8 h.length.toNat] ++ timecodeBytes h := by
  rw [hdrEnc, be32_eq, be16_eq]
  rfl

/-- The timecode bytes of a header with the flag; no value is written as 0 (D15). -/
theorem bigEndian_timecodeBytes {h : Header} (hflag : h.packetType.timecode = true) :
    bigEndian (timecodeBytes h) = (h.timecode.getD 0).toNat := by
  rw [timecodeBytes, if_pos hflag, bigEndian_be32]

/-- Settles O12: the encoded header, its words written out, and the length that the timecode flag gives. -/
theorem headerEncodeLayout : Obligations.HeaderEncodeLayout := by
  refine ⟨fun _ => rfl, fun s h hidle =>
    ⟨hdrEnc h, timecodeBytes h, answer_idle hidle _, hdrEnc_eq h, fun hclear => ?_, fun hset => ?_⟩⟩
  · refine ⟨by simp [timecodeBytes, hclear], ?_⟩
    simp [hdrEnc_length, headerLength, hclear]
  · refine ⟨by simp [timecodeBytes, hset], by simp [hdrEnc_length, headerLength, hset], ?_⟩
    rw [bigEndian_timecodeBytes hset]
    cases h.timecode <;> rfl

/-! ## Reading a header -/

/-- An input that is not short holds the whole header that its flags byte announces (R84, R143). -/
theorem not_shortInput_iff (data : Bytes) :
    ¬ ShortInput data ↔ headerLength (flagsDec (byteAt data 0)) ≤ data.length := by
  rw [headerLength_flagsDec, ShortInput]
  cases (byteAt data 0).getLsbD 4
  · simp
  · simp only [and_true, if_true]
    omega

theorem bigEndian_slice_four {data : Bytes} {i : Nat} (h : i + 4 ≤ data.length) :
    bigEndian ((data.drop i).take 4) = (rdBe32 data i).toNat := by
  rw [slice_four data i h, rdBe32_toNat]
  simp only [bigEndian, List.length_cons, List.length_nil]
  omega

theorem bigEndian_slice_two {data : Bytes} {i : Nat} (h : i + 2 ≤ data.length) :
    bigEndian ((data.drop i).take 2) = (rdBe16 data i).toNat := by
  rw [slice_two data i h, rdBe16_toNat]
  simp only [bigEndian, List.length_cons, List.length_nil]
  omega

theorem hdrDec_short {data : Bytes} (h : ShortInput data) : hdrDec data = (DefaultHeader, 0, true) := by
  rw [hdrDec, if_pos ((isShort_iff data).2 h)]
  rfl

theorem exec_hdrDec_idle {s : State} (hidle : s.inflight = none) (data : Bytes) :
    exec (.hdrDec data) s =
      .next (okWith (.header (hdrDec data).1 (hdrDec data).2.1 (hdrDec data).2.2) s) := answer_idle hidle _

/-- Settles O14: the input holds the announced header, so every word of it is read within the input. -/
theorem headerDecodeFields : Obligations.HeaderDecodeFields := by
  refine ⟨fun _ => rfl, fun s data hidle => ⟨fun hshort => ?_, fun hlong => ⟨headerFields data, ?_⟩⟩⟩
  · rw [exec_hdrDec_idle hidle, hdrDec_short hshort]
  · have hlen := (not_shortInput_iff data).1 hlong
    rw [headerLength_flagsDec] at hlen
    have hbase : 10 ≤ data.length := by split at hlen <;> omega
    refine ⟨by rw [exec_hdrDec_idle hidle, hdrDec_not_short hlong, headerLength_flagsDec], rfl, rfl, rfl, rfl,
      (bigEndian_slice_four (by omega)).symm, (bigEndian_slice_two (by omega)).symm,
      beq_iff_eq.1 (headerFields_consistent data), fun x hx => ?_⟩
    obtain ⟨hflag, hx⟩ := Option.ite_none_right_eq_some.1 hx
    rw [if_pos (show (byteAt data 0).getLsbD 4 = true from hflag)] at hlen
    rw [← Option.some.inj hx, bigEndian_slice_four hlen]

/-! ## The round trip -/

theorem idDec_idEnc {i : ID} (h : i.wellFormed = true) : idDec (idEnc i) = i := by
  cases i with
  | custom v =>
    have hv : v ∉ canonicalBytes := (inCustomRange_iff v).1 h
    rw [idEnc_custom, if_neg hv, idDec_of_notMem hv]
  | reserved | default | control | config | status | dmx | broadcast => rfl

theorem header_wellFormed_iff (h : Header) :
    h.wellFormed = true ↔ h.packetType.version ≠ 0 ∧ h.id.wellFormed = true ∧
      h.timecode.isSome = h.packetType.timecode := by
  simp only [Header.wellFormed, PacketType.wellFormed, Header.consistent, Bool.and_eq_true, bne_iff_ne, beq_iff_eq,
    and_assoc]

section
variable (h : Header) (t : Bytes)

theorem byteAt_zero_hdrEnc : byteAt (hdrEnc h ++ t) 0 = flagsEnc h.packetType := rfl

theorem byteAt_two_hdrEnc : byteAt (hdrEnc h ++ t) 2 = pixcfgEnc h.pixelConfig := rfl

theorem byteAt_three_hdrEnc : byteAt (hdrEnc h ++ t) 3 = idEnc h.id := rfl

theorem rdBe32_four_hdrEnc : rdBe32 (hdrEnc h ++ t) 4 = h.offset :=
  rdBe32_be32 h.offset [flagsEnc h.packetType, h.sequenceNumber, pixcfgEnc h.pixelConfig, idEnc h.id]
    (be16 h.length ++ (timecodeBytes h ++ t))

theorem rdBe16_eight_hdrEnc : rdBe16 (hdrEnc h ++ t) 8 = h.length :=
  rdBe16_be16 h.length ([flagsEnc h.packetType, h.sequenceNumber, pixcfgEnc h.pixelConfig, idEnc h.id]
    ++ be32 h.offset) (timecodeBytes h ++ t)

theorem rdBe32_ten_hdrEnc {x : U32} (hbytes : timecodeBytes h = be32 x) : rdBe32 (hdrEnc h ++ t) 10 = x := by
  rw [hdrEnc, hbytes]
  exact rdBe32_be32 x ([flagsEnc h.packetType, h.sequenceNumber, pixcfgEnc h.pixelConfig, idEnc h.id]
    ++ be32 h.offset ++ be16 h.length) t

variable {h} (hwf : h.wellFormed = true)
include hwf

/-- The flags byte of a well-formed header decodes to the packet type it was encoded from. -/
theorem flagsDec_byteAt_hdrEnc : flagsDec (byteAt (hdrEnc h ++ t) 0) = h.packetType := by
  obtain ⟨hversion, -, -⟩ := (header_wellFormed_iff h).1 hwf
  rw [byteAt_zero_hdrEnc, flagsDec_flagsEnc hversion]

/-- A timecode is read back exactly where the header holds one (D15). -/
theorem timecode_hdrEnc :
    (if h.packetType.timecode then some (rdBe32 (hdrEnc h ++ t) 10) else none) = h.timecode := by
  obtain ⟨-, -, hflag⟩ := (header_wellFormed_iff h).1 hwf
  cases htimecode : h.timecode with
  | none => rw [← hflag, htimecode, Option.isSome_none, if_neg Bool.false_ne_true]
  | some x =>
    have hset : h.packetType.timecode = true := by rw [← hflag, htimecode, Option.isSome_some]
    rw [if_pos hset, rdBe32_ten_hdrEnc h t (timecodeBytes_of_some hset htimecode)]

theorem headerFields_hdrEnc : headerFields (hdrEnc h ++ t) = h := by
  obtain ⟨-, hid, -⟩ := (header_wellFormed_iff h).1 hwf
  simp only [headerFields, flagsDec_byteAt_hdrEnc t hwf, byteAt_one_hdrEnc, byteAt_two_hdrEnc,
    (pixcfgEnc_layout h.pixelConfig).pixcfgDec, byteAt_three_hdrEnc, idDec_idEnc hid, rdBe32_four_hdrEnc,
    rdBe16_eight_hdrEnc, timecode_hdrEnc t hwf]

theorem not_shortInput_hdrEnc : ¬ ShortInput (hdrEnc h ++ t) := by
  rw [not_shortInput_iff, flagsDec_byteAt_hdrEnc t hwf, List.length_append, hdrEnc_length]
  exact Nat.le_add_right _ _

/-- The round trip of R144, with the header's length and whatever bytes follow. -/
theorem hdrDec_hdrEnc : hdrDec (hdrEnc h ++ t) = (h, headerLength h.packetType, false) := by
  rw [hdrDec_not_short (not_shortInput_hdrEnc t hwf), headerFields_hdrEnc t hwf, flagsDec_byteAt_hdrEnc t hwf]

end

/-- Settles O15: every field is read back from the place it was written to, and the header is not short. -/
theorem headerRoundTrip : Obligations.HeaderRoundTrip := by
  intro s h t hidle hwf
  rw [exec_hdrDec_idle hidle, hdrDec_hdrEnc t hwf]
  rfl

/-! ## The packet decoder -/

theorem exec_pktDec_idle {s : State} (hidle : s.inflight = none) (data : Bytes) :
    exec (.pktDec data) s = .next (okWith (.packetShort (pktDec data).1 (pktDec data).2) s) :=
  answer_idle hidle _

theorem pktDec_snd (data : Bytes) : (pktDec data).2 = isShort data := by
  cases h : isShort data <;> simp [pktDec, hdrDec, h]

/-- Settles O17: the packet is the decoded header, what stands behind it, and the parsed message. -/
theorem packetDecodeParts : Obligations.PacketDecodeParts := by
  refine ⟨fun _ => rfl, fun s data hidle => ⟨fun hshort => ?_, fun hlong => ⟨(pktDec data).1, ?_⟩⟩⟩
  · rw [exec_pktDec_idle hidle, pktDec_short ((isShort_iff data).2 hshort)]
    rfl
  · have hfalse := isShort_eq_false hlong
    rw [exec_pktDec_idle hidle, pktDec_snd, hfalse, pktDec_not_short hfalse, hdrDec_not_short hlong]
    exact ⟨rfl, rfl, rfl, rfl⟩

/-- Settles O16: the empty packet has the reply flag clear; every other packet's message is gated by its flag. -/
theorem replyFlagGatesParsing : Obligations.ReplyFlagGatesParsing := by
  refine ⟨fun data => ?_, fun data hlong => ?_⟩
  · cases h : isShort data with
    | true =>
      rw [pktDec_short h]
      rfl
    | false => rw [pktDec_not_short h]
  · rw [pktDec_not_short (isShort_eq_false hlong), headerLength_flagsDec]
    rfl

/-- Settles O18: neither decoder raises, as both answer a value whatever the bytes. -/
theorem headerDecodersAlwaysOk : Obligations.HeaderDecodersAlwaysOk :=
  fun _ data hidle => ⟨⟨_, exec_hdrDec_idle hidle data⟩, ⟨_, exec_pktDec_idle hidle data⟩⟩

end Sys2Proof.Machine

/-! The fragmenter family: how a payload is cut into chunks, what one fragment of a send does, and a whole send, from
its command to the fragment that ends it (spec/42_fragmenter.md). -/

namespace Sys2Proof.Machine

/-! ## Chunks and offsets -/

/-- The first `n` chunks are the first `n * 1440` bytes. -/
theorem flatten_chunks (data : Bytes) (n : Nat) :
    ((List.range n).map (chunkOf data)).flatten = data.take (n * 1440) := by
  induction n with
  | zero => simp
  | succ n ih =>
    rw [List.range_succ, List.map_append, List.flatten_append, ih, Nat.succ_mul, List.take_add]
    simp [chunkOf_eq]

/-- Settles O20: chunk `k` begins where the first `k` chunks end, so each is a slice of the payload. -/
theorem chunkPartition : Obligations.ChunkPartition := by
  intro data hdata
  have hpos : 0 < data.length := List.length_pos_iff.2 hdata
  simp only [chunkOf_length, fragmentsOf]
  refine ⟨rfl, fun k _ => ?_, ?_, fun k hk => ?_, ?_, ?_, ?_⟩
  · -- the slice of `R171` and the chunk are takes of one drop, of lengths that agree within the payload
    rw [chunkOf_eq, List.drop_take, List.take_eq_take_iff, List.length_drop]
    omega
  · rw [flatten_chunks, List.take_of_length_le (by omega)]
  all_goals omega

/-- An offset that fits 32 bits is exact under both policies (R178). -/
theorem chunkOffset_fits {base : U32} {k : Nat} (h : base.toNat + k * 1440 ≤ 2 ^ 32 - 1) (p : OffsetOverflow) :
    chunkOffset p base k = some (BitVec.ofNat 32 (base.toNat + k * 1440)) := if_pos h

/-- Beyond 32 bits the policy decides (R178). -/
theorem chunkOffset_beyond {base : U32} {k : Nat} (h : 2 ^ 32 - 1 < base.toNat + k * 1440) :
    chunkOffset .fault base k = none ∧
      chunkOffset .wrap base k = some (BitVec.ofNat 32 (base.toNat + k * 1440)) :=
  ⟨if_neg (Nat.not_le.2 h), if_neg (Nat.not_le.2 h)⟩

/-- Settles O21, by cases on whether the sum fits 32 bits. -/
theorem offsetArithmetic : Obligations.OffsetArithmetic := by
  refine ⟨rfl, fun base k => ⟨fun hfits p => ⟨_, chunkOffset_fits hfits p, ?_⟩, fun hbeyond => ?_⟩⟩
  · rw [BitVec.toNat_ofNat, Nat.mod_eq_of_lt (by omega)]
  · obtain ⟨hfault, hwrap⟩ := chunkOffset_beyond hbeyond
    exact ⟨hfault, _, hwrap, BitVec.toNat_ofNat _ _⟩

/-! ## One fragment -/

/-- The header of a fragment is the stamped one, under this hardware's `OFFSET_OVERFLOW = WRAP` (R172, D17). -/
theorem fragmentHeader_eq (t : Transfer) (seq : BitVec 4) :
    fragmentHeader t seq = some (stampedHeader t.template t.data t.k t.chunks seq) := by
  simp only [fragmentHeader, chunkOffset_wrap, chunkOf_length, stampedHeader, BitVec.ofNat_toNat]

/-- Settles O22, from the stamped header: the length fits 16 bits and the counter 8. -/
theorem fragmentStamping : Obligations.FragmentStamping := by
  refine fun t seq => ⟨_, fragmentHeader_eq t seq, ?_, ?_, ?_, decide_eq_true_iff, rfl, rfl, rfl, rfl, rfl, rfl, rfl,
    rfl⟩
  · exact Nat.mod_eq_of_lt (by omega)
  · rw [chunkOf_length]
    exact Nat.mod_eq_of_lt (by omega)
  · simp only [stampedHeader, BitVec.toNat_add, BitVec.toNat_ofNat, Nat.add_mod_mod]

/-- The datagram of a fragment is the one that the rules write out (R86, R171, R173). -/
theorem fragment_eq_datagramOf {t : Transfer} {seq : BitVec 4} {hdr : Header}
    (h : fragmentHeader t seq = some hdr) :
    hdrEnc hdr ++ chunkOf t.data t.k = datagramOf t.template t.data t.k t.chunks seq := by
  rw [fragmentHeader_eq, Option.some.injEq] at h
  rw [← h, chunkOf_eq, datagramOf]

/-- The advance as the rule writes it (R116). -/
theorem seqAdvance_eq_ite (v : BitVec 4) : seqAdvance v = if v = 15 then 1 else v + 1 := by
  by_cases h : v = 15
  · subst h
    rfl
  · rw [if_neg h, seqAdvance_of_ne_max h]

/-- A fragment does one iteration of the loop (R170): its three outcomes are those that the rules name. -/
theorem sendFragment_done (t : Transfer) (s : State) : ∃ u, sendFragment t s = .next u ∧ FragmentDone t s u := by
  obtain ⟨u, hu⟩ := sendFragment_next t s
  obtain ⟨hdr, d, hhdr, hd, hcases⟩ := sendFragment_cases hu
  rw [fragment_eq_datagramOf hhdr] at hd
  refine ⟨u, hu, ?_⟩
  simp only [FragmentDone, ← hd]
  have hbuf := sendbufByte_overlay d s.sendbuf
  obtain ⟨e, ho, rfl⟩ | ⟨ho, hmore, rfl⟩ | ⟨ho, hlast, rfl⟩ := hcases <;>
    refine ⟨rfl, rfl, rfl, rfl, rfl, rfl, rfl, hbuf, ?_⟩ <;> rw [ho]
  · exact ⟨rfl, rfl, rfl⟩
  · rw [if_pos hmore]
    exact ⟨seqAdvance_eq_ite s.seq, rfl, rfl⟩
  · rw [if_neg (Nat.not_lt.2 hlast)]
    exact ⟨seqAdvance_eq_ite s.seq, rfl, rfl⟩

/-- While a write is in progress a presented command waits (R35). -/
theorem step_inflight_command {s : State} {t : Transfer} {c : Command} {rest : List Input}
    (ht : s.inflight = some t) (hin : s.inputs = .command c :: rest) : step s = sendFragment t s := by
  simp only [step, hin, ht]

/-- A pause of the environment leaves the step to the write in progress. -/
theorem step_inflight_quiet {s : State} {t : Transfer} {rest : List Input} (ht : s.inflight = some t)
    (hin : s.inputs = .quiet :: rest) : step s = sendFragment t (s.setInputs rest) := by
  simp only [step, hin, framerStep, State.setInputs_inflight, ht]

/-- Settles O24: whatever of the three the environment does, the step is a fragment. -/
theorem framerStepSendsNextFragment : Obligations.FramerStepSendsNextFragment := by
  refine fun s t ht => ⟨fun hin => ?_, fun c rest hin => ?_, fun rest hin => ?_⟩
  · rw [step_inflight ht hin]
    exact sendFragment_done t s
  · rw [step_inflight_command ht hin]
    exact sendFragment_done t s
  · rw [step_inflight_quiet ht hin]
    exact sendFragment_done t (s.setInputs rest)

/-! ## The step of the command -/

theorem sliceSend_of_ne_nil {data : Bytes} (h : data ≠ []) (hdr : Header) (s : State) :
    sliceSend hdr data s = sendFragment (firstTransfer hdr data) s := if_neg (mt List.length_eq_zero_iff.1 h)

/-- A send of an idle framer begins as the rules say (R170, R176). -/
theorem sliceSend_begins {s : State} (hidle : s.inflight = none) (hdr : Header) (data : Bytes) :
    ∃ u, sliceSend hdr data s = .next u ∧ SendBegins hdr data s u := by
  unfold SendBegins
  by_cases hdata : data = []
  · subst hdata
    exact ⟨_, rfl, finish_idle hidle _ _⟩
  · simp only [if_neg hdata, sliceSend_of_ne_nil hdata]
    exact sendFragment_done _ s

/-- SLICE_SEND of an idle framer is the send of its operands. -/
theorem exec_sliceSend_idle {s : State} (hidle : s.inflight = none) (hdr : Header) (data : Bytes) :
    exec (.sliceSend hdr data) s = sliceSend hdr data s := whenIdle_idle hidle _

/-- Settles O23, by how a send begins. -/
theorem sliceSendFirstStep : Obligations.SliceSendFirstStep := by
  refine ⟨fun _ => rfl, fun s hdr data hidle => ?_⟩
  rw [exec_sliceSend_idle hidle]
  exact sliceSend_begins hidle hdr data

/-- Settles O19: a send of the empty payload only answers the count 0. -/
theorem emptyPayloadSendsNothing : Obligations.EmptyPayloadSendsNothing :=
  fun _ _ hidle => answer_idle hidle (.count 0)

/-! ## A whole send -/

/-- A run one step longer ends with the step of the state that the run reached. -/
theorem core_run_succ_last {k : Nat} {s u : State} (h : Host.Core.run Sys2Proof.core k s = .next u) :
    Host.Core.run Sys2Proof.core (k + 1) s = step u := by
  obtain ⟨v, hv⟩ := stepAlwaysAnswersNext s
  rw [core_run_succ k hv]
  induction k generalizing s v with
  | zero =>
    cases h
    exact hv.symm
  | succ k ih =>
    obtain ⟨w, hw⟩ := stepAlwaysAnswersNext v
    rw [core_run_succ k hv] at h
    rw [core_run_succ k hw]
    exact ih h w hw

/-- The write of `data` when its next chunk is chunk `n`, all before it having been sent (R32). -/
def transferAt (hdr : Header) (data : Bytes) (n : Nat) : Transfer :=
  { template := hdr, data := data, k := n, chunks := fragmentsOf data.length,
    total := n * (headerLength hdr.packetType + 1440) }

theorem transferAt_zero (hdr : Header) (data : Bytes) : transferAt hdr data 0 = firstTransfer hdr data := by
  rw [transferAt, Nat.zero_mul]
  rfl

theorem sentDatagram_length (s : State) (hdr : Header) (data : Bytes) (k : Nat) :
    (sentDatagram s hdr data k).length
      = headerLength hdr.packetType + min 1440 (data.length - k * 1440) := by
  rw [sentDatagram, datagramOf, List.length_append, hdrEnc_length, List.length_take, List.length_drop]
  rfl

/-- A fragment with another one after it is full. -/
theorem sentDatagram_length_full {data : Bytes} {k : Nat} (h : k + 1 < fragmentsOf data.length) (s : State)
    (hdr : Header) : (sentDatagram s hdr data k).length = headerLength hdr.packetType + 1440 := by
  unfold fragmentsOf at h
  rw [sentDatagram_length]
  omega

/-- The last fragment completes the count: a header for each chunk, and every payload byte (R175). -/
theorem count_of_last {data : Bytes} {k : Nat} (h : fragmentsOf data.length = k + 1) (s : State) (hdr : Header) :
    k * (headerLength hdr.packetType + 1440) + (sentDatagram s hdr data k).length
      = fragmentsOf data.length * headerLength hdr.packetType + data.length := by
  rw [sentDatagram_length, h, Nat.mul_add, Nat.succ_mul]
  unfold fragmentsOf at h
  omega

theorem fragmentsOf_pos {data : Bytes} : 0 < fragmentsOf data.length ↔ data ≠ [] := by
  rw [← List.length_pos_iff, fragmentsOf]
  omega

/-- What `SENDBUF` holds at `a` once `n` fragments of a send that begins in `s` are assembled. -/
def bufferAfter (s : State) (hdr : Header) (data : Bytes) (n a : Nat) : Option Byte :=
  match n with
  | 0 => sendbufByte s.sendbuf a
  | j + 1 => sendbufAfter s hdr data j a

/-- Assembling a fragment lays its datagram over what the fragments before it left: those are full, and so of
one length, so that only the last of them is seen behind it (R173). -/
theorem bufferAfter_succ {data : Bytes} {n : Nat} (hn : n < fragmentsOf data.length) (s : State) (hdr : Header)
    (a : Nat) :
    bufferAfter s hdr data (n + 1) a
      = if a < (sentDatagram s hdr data n).length then (sentDatagram s hdr data n)[a]?
        else bufferAfter s hdr data n a := by
  cases n with
  | zero => simp only [bufferAfter, sendbufAfter, Nat.lt_irrefl, false_and, if_false]
  | succ j =>
    have hcover : 0 < j → (sentDatagram s hdr data (j - 1)).length = (sentDatagram s hdr data j).length := by
      intro hj
      rw [sentDatagram_length_full (by omega), sentDatagram_length_full hn]
    simp only [bufferAfter, sendbufAfter, Nat.succ_pos, true_and, Nat.add_sub_cancel]
    split
    · rfl
    · split
      · rfl
      · rename_i hout
        have hunder : ¬ (0 < j ∧ a < (sentDatagram s hdr data (j - 1)).length) :=
          fun ⟨hj, hlt⟩ => hout (hcover hj ▸ hlt)
        rw [if_neg hunder]

/-- The counter that stamps fragment `n` stamps fragment `n + 1` once advanced (R179). -/
theorem seqAdvance_sequenceAt {v w : BitVec 4} {n : Nat} (h : w.toNat = sequenceAt v n) :
    (seqAdvance w).toNat = sequenceAt v (n + 1) := by
  unfold sequenceAt at h ⊢
  rw [seqAdvance_toNat (by bv_omega)]
  omega

/-- With the counter at the stamp of fragment `k`, the datagram of a fragment is the one the send has there. -/
theorem sentDatagram_of_seq {s w : State} {k : Nat} (h : w.seq.toNat = sequenceAt s.seq k) (hdr : Header)
    (data : Bytes) : datagramOf hdr data k (fragmentsOf data.length) w.seq = sentDatagram s hdr data k := by
  rw [sentDatagram, ← h, BitVec.ofNat_toNat, BitVec.setWidth_eq]

theorem nextOutcome_cons {s : State} {o : TxOutcome} {rest : List TxOutcome} (h : s.txScript = o :: rest) :
    nextOutcome s = o := by
  simp only [nextOutcome, h]

/-- What the first `n` fragments of a send that begins in `s` leave, `answer k` being what the transport said to
fragment `k`; the counter and how the write stands are apart. -/
structure HandedOver (s : State) (hdr : Header) (data : Bytes) (answer : Nat → TxOutcome) (n : Nat) (u : State) :
    Prop where
  cfgDest : u.cfgDest = s.cfgDest
  cfgPixcfg : u.cfgPixcfg = s.cfgPixcfg
  cfgId : u.cfgId = s.cfgId
  inq : u.inq = s.inq
  inputs : u.inputs = s.inputs
  txScript : s.txScript = (List.range n).map answer ++ u.txScript
  txlog : u.txlog = s.txlog ++
    (List.range n).map fun k => TxEntry.mk s.cfgDest (sentDatagram s hdr data k) (answer k)
  sendbuf : ∀ a, sendbufByte u.sendbuf a = bufferAfter s hdr data n a

/-- How the write stands after fragment `n` of such a send, answered by `o`: the counter, and the write going on
or ended (R174, R175, R177). -/
def WriteAfter (s : State) (hdr : Header) (data : Bytes) (n : Nat) (o : TxOutcome) (u : State) : Prop :=
  match o with
  | .err e =>
    u.seq.toNat = sequenceAt s.seq n ∧ u.inflight = none ∧
      u.result = some { status := .transportError, value := .transportInfo e }
  | .ok =>
    u.seq.toNat = sequenceAt s.seq (n + 1) ∧
      if n + 1 < fragmentsOf data.length then u.inflight = some (transferAt hdr data (n + 1))
      else u.inflight = none ∧ u.result = some (.mk .ok (.count
        (fragmentsOf data.length * headerLength hdr.packetType + data.length)))

theorem handedOver_zero (s : State) (hdr : Header) (data : Bytes) (answer : Nat → TxOutcome) :
    HandedOver s hdr data answer 0 s where
  cfgDest := rfl
  cfgPixcfg := rfl
  cfgId := rfl
  inq := rfl
  inputs := rfl
  txScript := rfl
  txlog := (List.append_nil _).symm
  sendbuf _ := rfl

section
variable {s w u : State} {hdr : Header} {data : Bytes} {n : Nat} (hn : n < fragmentsOf data.length)
  (hseq : w.seq.toNat = sequenceAt s.seq n) (hdone : FragmentDone (transferAt hdr data n) w u)
include hn hseq hdone

/-- One more fragment, with the counter at its stamp. -/
theorem HandedOver.next {answer : Nat → TxOutcome} {rest : List TxOutcome} (h : HandedOver s hdr data answer n w)
    (hanswer : w.txScript = answer n :: rest) : HandedOver s hdr data answer (n + 1) u := by
  obtain ⟨hdest, hpix, hid, hinq, hins, hscript, hlog, hbuf, -⟩ := hdone
  simp only [nextOutcome_cons hanswer, transferAt, sentDatagram_of_seq hseq] at hlog hbuf
  refine ⟨hdest.trans h.cfgDest, hpix.trans h.cfgPixcfg, hid.trans h.cfgId, hinq.trans h.inq,
    hins.trans h.inputs, ?_, ?_, fun a => ?_⟩
  · rw [h.txScript, hscript, hanswer, List.range_succ, List.map_append, List.append_assoc]
    rfl
  · rw [hlog, h.txlog, h.cfgDest, List.range_succ, List.map_append, List.append_assoc]
    rfl
  · rw [hbuf, h.sendbuf, bufferAfter_succ hn]

/-- The outcome of that fragment: the write ends with its error, goes on with the next chunk, or is complete. -/
theorem FragmentDone.writeAfter : WriteAfter s hdr data n (nextOutcome w) u := by
  obtain ⟨-, -, -, -, -, -, -, -, hend⟩ := hdone
  simp only [transferAt, sentDatagram_of_seq hseq] at hend
  unfold WriteAfter
  cases ho : nextOutcome w with
  | err e =>
    simp only [ho] at hend
    obtain ⟨hcounter, hidle, hres⟩ := hend
    exact ⟨hcounter ▸ hseq, hidle, hres⟩
  | ok =>
    simp only [ho, ← seqAdvance_eq_ite] at hend
    obtain ⟨hcounter, hgo⟩ := hend
    refine ⟨hcounter ▸ seqAdvance_sequenceAt hseq, ?_⟩
    by_cases hmore : n + 1 < fragmentsOf data.length
    · rw [if_pos hmore, sentDatagram_length_full hmore, ← Nat.succ_mul] at hgo
      rw [if_pos hmore]
      exact hgo.1
    · rw [if_neg hmore, count_of_last (by omega)] at hgo
      rw [if_neg hmore]
      exact hgo

end

/-- A send runs to its fragment `j` as long as the transport answers `Ok`, one fragment a step (R174). -/
theorem sliceSend_run {s : State} {hdr : Header} {data : Bytes} {answer : Nat → TxOutcome} {j : Nat}
    {rest : List TxOutcome} (hidle : s.inflight = none) (hin : s.inputs = []) (hseq : s.seq ≠ 0)
    (hj : j < fragmentsOf data.length) (hok : ∀ k < j, answer k = .ok)
    (hscript : s.txScript = (List.range (j + 1)).map answer ++ rest) :
    ∃ u v, exec (.sliceSend hdr data) s = .next u ∧ Host.Core.run Sys2Proof.core j u = .next v ∧
      HandedOver s hdr data answer (j + 1) v ∧ WriteAfter s hdr data j (answer j) v := by
  induction j generalizing rest with
  | zero =>
    have hstamp := seqAdvance_iterate_toNat hseq 0
    obtain ⟨u, hu, hdone⟩ := sendFragment_done (transferAt hdr data 0) s
    rw [exec_sliceSend_idle hidle, sliceSend_of_ne_nil (fragmentsOf_pos.1 hj), ← transferAt_zero]
    exact ⟨u, u, hu, rfl, (handedOver_zero s hdr data answer).next hj hstamp hdone hscript,
      nextOutcome_cons hscript ▸ hdone.writeAfter hj hstamp⟩
  | succ j ih =>
    rw [List.range_succ, List.map_append, List.append_assoc] at hscript
    obtain ⟨u, w, hu, hrun, hover, hafter⟩ :=
      ih (Nat.lt_of_succ_lt hj) (fun k hk => hok k (Nat.lt_succ_of_lt hk)) hscript
    simp only [WriteAfter, hok j (Nat.lt_succ_self j), if_pos hj] at hafter
    obtain ⟨hstamp, hinflight⟩ := hafter
    have hanswer := List.append_cancel_left (hover.txScript.symm.trans hscript)
    obtain ⟨v, hv, hdone⟩ := sendFragment_done (transferAt hdr data (j + 1)) w
    refine ⟨u, v, hu, ?_, hover.next hj hstamp hdone hanswer,
      nextOutcome_cons hanswer ▸ hdone.writeAfter hj hstamp⟩
    rw [core_run_succ_last hrun, step_inflight hinflight (hover.inputs.trans hin)]
    exact hv

/-- The transport's answers when the first error is `e`, at fragment `j`. -/
def failsAt (j : Nat) (e : TransportError) (k : Nat) : TxOutcome := if k < j then .ok else .err e

theorem failsAt_before {j k : Nat} (h : k < j) (e : TransportError) : failsAt j e k = .ok := if_pos h

theorem failsAt_self (j : Nat) (e : TransportError) : failsAt j e j = .err e := if_neg (Nat.lt_irrefl j)

theorem map_failsAt_range (j : Nat) (e : TransportError) :
    (List.range (j + 1)).map (failsAt j e) = List.replicate j .ok ++ [.err e] := by
  have hok : (List.range j).map (failsAt j e) = (List.range j).map fun _ => .ok :=
    List.map_congr_left fun k hk => failsAt_before (List.mem_range.1 hk) e
  rw [List.range_succ, List.map_append, hok, List.map_const', List.length_range, List.map_singleton, failsAt_self]

/-- Settles O25: every answer is `Ok`, so the run reaches the last fragment, which ends the write. -/
theorem sliceSendWholeRun : Obligations.SliceSendWholeRun := by
  intro s hdr data rest hidle hin hseq hdata hscript
  obtain ⟨j, hj⟩ := Nat.exists_eq_add_one.2 (fragmentsOf_pos.2 hdata)
  have hlt : j < fragmentsOf data.length := by omega
  have hanswers : s.txScript = (List.range (j + 1)).map (fun _ => .ok) ++ rest := by
    rw [hscript, hj, List.map_const', List.length_range]
  obtain ⟨u, v, hu, hrun, hover, hafter⟩ :=
    sliceSend_run (hdr := hdr) hidle hin hseq hlt (fun _ _ => rfl) hanswers
  simp only [WriteAfter, hj, if_neg (Nat.lt_irrefl _)] at hafter
  obtain ⟨hvseq, hend, hres⟩ := hafter
  rw [hj]
  exact ⟨u, v, hu, hrun, hend, hres, hvseq, hover.txlog, hover.sendbuf,
    List.append_cancel_left (hover.txScript.symm.trans hanswers), hover.inq, hover.inputs.trans hin,
    hover.cfgDest, hover.cfgPixcfg, hover.cfgId⟩

/-- Settles O26: the run reaches fragment `j`, whose answer is the error. -/
theorem transportFailureAborts : Obligations.TransportFailureAborts := by
  intro s hdr data rest j e hidle hin hseq hj hscript
  have hanswers : s.txScript = (List.range (j + 1)).map (failsAt j e) ++ rest := by
    rw [hscript, map_failsAt_range, List.append_assoc]
    rfl
  obtain ⟨u, v, hu, hrun, hover, hafter⟩ :=
    sliceSend_run (hdr := hdr) hidle hin hseq hj (fun _ hk => failsAt_before hk e) hanswers
  rw [failsAt_self] at hafter
  obtain ⟨hvseq, hend, hres⟩ := hafter
  exact ⟨u, v, hu, hrun, hend, hres, hvseq, hover.txlog, hover.sendbuf,
    List.append_cancel_left (hover.txScript.symm.trans hanswers), hover.inq, hover.inputs.trans hin,
    hover.cfgDest, hover.cfgPixcfg, hover.cfgId⟩

end Sys2Proof.Machine

/-! The message codec family: what a unit of the UTF-8 table is, the text decoder and the encoder by units, and the
commands MSG_ENC and MSG_DEC (spec/43_message_codec.md). -/

namespace Sys2Proof.Machine

/-! ## The rows of the UTF-8 table -/

theorem inRange_iff (lo hi : Nat) (b : Byte) : inRange lo hi b = true ↔ lo ≤ b.toNat ∧ b.toNat ≤ hi := by
  simp [inRange]

theorem utf8Unit1_iff (b0 : Byte) : utf8Unit1 b0 = true ↔ b0.toNat < 0x80 := by
  rw [utf8Unit1, inRange_iff]
  omega

theorem utf8Unit2_iff (b0 b1 : Byte) : utf8Unit2 b0 b1 = true ↔
    (0xC2 ≤ b0.toNat ∧ b0.toNat < 0xE0) ∧ 0x80 ≤ b1.toNat ∧ b1.toNat < 0xC0 := by
  simp only [utf8Unit2, utf8Cont, Bool.and_eq_true, inRange_iff]
  omega

/-- The four rows of three bytes as one, with the overlong forms and the surrogates taken out. -/
theorem utf8Unit3_iff (b0 b1 b2 : Byte) : utf8Unit3 b0 b1 b2 = true ↔
    (0xE0 ≤ b0.toNat ∧ b0.toNat < 0xF0) ∧ (0x80 ≤ b1.toNat ∧ b1.toNat < 0xC0) ∧
      (0x80 ≤ b2.toNat ∧ b2.toNat < 0xC0) ∧
      (b0.toNat = 0xE0 → 0xA0 ≤ b1.toNat) ∧ (b0.toNat = 0xED → b1.toNat < 0xA0) := by
  simp only [utf8Unit3, utf8Cont, Bool.and_eq_true, Bool.or_eq_true, inRange_iff]
  omega

/-- The three rows of four bytes as one, with the overlong forms and what lies past U+10FFFF taken out. -/
theorem utf8Unit4_iff (b0 b1 b2 b3 : Byte) : utf8Unit4 b0 b1 b2 b3 = true ↔
    (0xF0 ≤ b0.toNat ∧ b0.toNat < 0xF5) ∧ (0x80 ≤ b1.toNat ∧ b1.toNat < 0xC0) ∧
      (0x80 ≤ b2.toNat ∧ b2.toNat < 0xC0) ∧ (0x80 ≤ b3.toNat ∧ b3.toNat < 0xC0) ∧
      (b0.toNat = 0xF0 → 0x90 ≤ b1.toNat) ∧ (b0.toNat = 0xF4 → b1.toNat < 0x90) := by
  simp only [utf8Unit4, utf8Cont, Bool.and_eq_true, Bool.or_eq_true, inRange_iff]
  omega

theorem utf8Unit1_eq_false {b0 : Byte} (h : 0x80 ≤ b0.toNat) : utf8Unit1 b0 = false := by
  rw [Bool.eq_false_iff, ne_eq, utf8Unit1_iff]
  omega

theorem utf8Unit2_eq_false {b0 : Byte} (h : 0xE0 ≤ b0.toNat) (b1 : Byte) : utf8Unit2 b0 b1 = false := by
  rw [Bool.eq_false_iff, ne_eq, utf8Unit2_iff]
  omega

theorem utf8Unit3_eq_false {b0 : Byte} (h : 0xF0 ≤ b0.toNat) (b1 b2 : Byte) : utf8Unit3 b0 b1 b2 = false := by
  rw [Bool.eq_false_iff, ne_eq, utf8Unit3_iff]
  omega

/-! The rows the decoder tests are those of the table, one length at a time (R196). -/

theorem utf8Unit1_iff_table (b0 : Byte) : utf8Unit1 b0 = true ↔ Utf8Unit [b0.toNat] := by
  rw [utf8Unit1_iff]
  simp [Utf8Unit]
  omega

theorem utf8Unit2_iff_table (b0 b1 : Byte) : utf8Unit2 b0 b1 = true ↔ Utf8Unit [b0.toNat, b1.toNat] := by
  rw [utf8Unit2_iff]
  simp [Utf8Unit]
  omega

theorem utf8Unit3_iff_table (b0 b1 b2 : Byte) :
    utf8Unit3 b0 b1 b2 = true ↔ Utf8Unit [b0.toNat, b1.toNat, b2.toNat] := by
  rw [utf8Unit3_iff]
  simp [Utf8Unit]
  omega

theorem utf8Unit4_iff_table (b0 b1 b2 b3 : Byte) :
    utf8Unit4 b0 b1 b2 b3 = true ↔ Utf8Unit [b0.toNat, b1.toNat, b2.toNat, b3.toNat] := by
  rw [utf8Unit4_iff]
  simp [Utf8Unit]
  omega

/-- The unit `u` of the scalar value `c`: the rows the decoder tests, one constructor per length. -/
inductive UnitOf : Bytes → Char → Prop where
  | one {b0 : Byte} (h : utf8Unit1 b0 = true) : UnitOf [b0] (utf8Char1 b0)
  | two {b0 b1 : Byte} (h : utf8Unit2 b0 b1 = true) : UnitOf [b0, b1] (utf8Char2 b0 b1)
  | three {b0 b1 b2 : Byte} (h : utf8Unit3 b0 b1 b2 = true) : UnitOf [b0, b1, b2] (utf8Char3 b0 b1 b2)
  | four {b0 b1 b2 b3 : Byte} (h : utf8Unit4 b0 b1 b2 b3 = true) :
      UnitOf [b0, b1, b2, b3] (utf8Char4 b0 b1 b2 b3)

theorem UnitOf.utf8Unit {u : Bytes} {c : Char} (h : UnitOf u c) : Utf8Unit (u.map BitVec.toNat) := by
  cases h with
  | one h => exact (utf8Unit1_iff_table _).1 h
  | two h => exact (utf8Unit2_iff_table _ _).1 h
  | three h => exact (utf8Unit3_iff_table _ _ _).1 h
  | four h => exact (utf8Unit4_iff_table _ _ _ _).1 h

/-- Every unit of the table is the unit of a scalar value. -/
theorem unitOf_of_utf8Unit {u : Bytes} (h : Utf8Unit (u.map BitVec.toNat)) : ∃ c, UnitOf u c := by
  match u with
  | [b0] => exact ⟨_, .one ((utf8Unit1_iff_table _).2 h)⟩
  | [b0, b1] => exact ⟨_, .two ((utf8Unit2_iff_table _ _).2 h)⟩
  | [b0, b1, b2] => exact ⟨_, .three ((utf8Unit3_iff_table _ _ _).2 h)⟩
  | [b0, b1, b2, b3] => exact ⟨_, .four ((utf8Unit4_iff_table _ _ _ _).2 h)⟩
  | [] | _ :: _ :: _ :: _ :: _ :: _ => simp [Utf8Unit] at h

/-! ## The text decoder, by units -/

/-- The decoder takes a unit off the head of the bytes: its first byte lies in no earlier row. -/
theorem utf8Decode_append {u : Bytes} {c : Char} (h : UnitOf u c) (r : Bytes) :
    utf8Decode (u ++ r) = (utf8Decode r).map (c :: ·) := by
  cases h with
  | one h => exact utf8Decode_one r h
  | two h =>
    obtain ⟨⟨hlo, -⟩, -⟩ := (utf8Unit2_iff _ _).1 h
    exact utf8Decode_two r (utf8Unit1_eq_false (by omega)) h
  | three h =>
    obtain ⟨⟨hlo, -⟩, -⟩ := (utf8Unit3_iff _ _ _).1 h
    exact utf8Decode_three r (utf8Unit1_eq_false (by omega)) (utf8Unit2_eq_false hlo _) h
  | four h =>
    obtain ⟨⟨hlo, -⟩, -⟩ := (utf8Unit4_iff _ _ _ _).1 h
    exact utf8Decode_four r (utf8Unit1_eq_false (by omega)) (utf8Unit2_eq_false (by omega) _)
      (utf8Unit3_eq_false hlo _ _) h

/-- Bytes that are the units of the scalar values of a text, one after the other. -/
inductive UnitsOf : Bytes → Text → Prop where
  | nil : UnitsOf [] []
  | cons {u r : Bytes} {c : Char} {t : Text} (hu : UnitOf u c) (hr : UnitsOf r t) : UnitsOf (u ++ r) (c :: t)

theorem unitsOf_of_utf8Decode {d : Bytes} {t : Text} (h : utf8Decode d = some t) : UnitsOf d t := by
  obtain ⟨rfl, rfl⟩ | ⟨_, _, _, rfl, hu, hr, rfl⟩ | ⟨_, _, _, _, rfl, hu, hr, rfl⟩ |
    ⟨_, _, _, _, _, rfl, hu, hr, rfl⟩ | ⟨_, _, _, _, _, _, rfl, hu, hr, rfl⟩ := utf8Decode_cases h
  · exact .nil
  · exact .cons (.one hu) (unitsOf_of_utf8Decode hr)
  · exact .cons (.two hu) (unitsOf_of_utf8Decode hr)
  · exact .cons (.three hu) (unitsOf_of_utf8Decode hr)
  · exact .cons (.four hu) (unitsOf_of_utf8Decode hr)
termination_by t.length

/-- The decoder reads the units of the bytes and nothing else (R196). -/
theorem utf8Decode_eq_some_iff {d : Bytes} {t : Text} : utf8Decode d = some t ↔ UnitsOf d t := by
  refine ⟨unitsOf_of_utf8Decode, fun h => ?_⟩
  induction h with
  | nil => rw [utf8Decode]
  | cons hu _ ih => rw [utf8Decode_append hu, ih, Option.map_some]

theorem UnitsOf.utf8WellFormed {d : Bytes} {t : Text} (h : UnitsOf d t) : Utf8WellFormed d := by
  induction h with
  | nil => exact ⟨[], List.forall_mem_nil _, rfl⟩
  | @cons u r c t hu _ ih =>
    obtain ⟨units, hunits, hflat⟩ := ih
    refine ⟨u.map BitVec.toNat :: units, List.forall_mem_cons.2 ⟨hu.utf8Unit, hunits⟩, ?_⟩
    rw [List.map_append, hflat, List.flatten_cons]

theorem unitsOf_of_utf8Unit {units : List (List Nat)} (hunits : ∀ u ∈ units, Utf8Unit u) {d : Bytes}
    (hd : d.map BitVec.toNat = units.flatten) : ∃ t, UnitsOf d t := by
  induction units generalizing d with
  | nil => exact ⟨[], List.map_eq_nil_iff.1 hd ▸ .nil⟩
  | cons n units ih =>
    obtain ⟨hn, hrest⟩ := List.forall_mem_cons.1 hunits
    obtain ⟨u, r, rfl, rfl, hr⟩ := List.map_eq_append_iff.1 hd
    obtain ⟨c, hu⟩ := unitOf_of_utf8Unit hn
    obtain ⟨t, ht⟩ := ih hrest hr
    exact ⟨c :: t, .cons hu ht⟩

/-- Settles O31: the units the decoder reads are those of the table. -/
theorem utf8AcceptsExactly : Obligations.Utf8AcceptsExactly := by
  intro data
  rw [Option.isSome_iff_exists]
  simp only [utf8Decode_eq_some_iff]
  exact ⟨fun ⟨_, h⟩ => h.utf8WellFormed, fun ⟨_, hunits, hflat⟩ => unitsOf_of_utf8Unit hunits hflat⟩

/-! ## The unit of a scalar value -/

/-- A scalar value is below U+110000 and no surrogate. -/
theorem char_toNat_range (c : Char) : c.toNat < 0xD800 ∨ 0xDFFF < c.toNat ∧ c.toNat < 0x110000 := c.valid

theorem toNat_ofNat_byte {n : Nat} (h : n < 256) : (BitVec.ofNat 8 n).toNat = n := Nat.mod_eq_of_lt h

theorem ofNat_byte {n : Nat} {b : Byte} (h : n = b.toNat) : BitVec.ofNat 8 n = b := by
  rw [h, BitVec.ofNat_toNat, BitVec.setWidth_eq]

theorem char_ofNat {n : Nat} {c : Char} (h : n = c.toNat) : Char.ofNat n = c := by
  rw [h, Char.ofNat_toNat]

theorem toNat_char_ofNat {n : Nat} (h : n < 0xD800 ∨ 0xDFFF < n ∧ n < 0x110000) : (Char.ofNat n).toNat = n := by
  rw [Char.toNat_ofNat, if_pos h]

theorem UnitOf.of_eq {u : Bytes} {c d : Char} (h : UnitOf u c) (hc : c = d) : UnitOf u d := hc ▸ h

/-- The encoder writes a unit of the table, and the decoder's arithmetic gives the scalar value back. -/
theorem unitOf_utf8EncodeChar (c : Char) : UnitOf (utf8EncodeChar c) c := by
  have hrange := char_toNat_range c
  unfold utf8EncodeChar
  dsimp only
  split
  · have h0 := toNat_ofNat_byte (n := c.toNat) (by omega)
    exact .of_eq (.one ((utf8Unit1_iff _).2 (by omega))) (char_ofNat h0)
  · have h1 := toNat_ofNat_byte (n := 0x80 + c.toNat % 64) (by omega)
    split
    · have h0 := toNat_ofNat_byte (n := 0xC0 + c.toNat / 64) (by omega)
      exact .of_eq (.two ((utf8Unit2_iff _ _).2 (by omega))) (char_ofNat (by omega))
    · have h2 := toNat_ofNat_byte (n := 0x80 + c.toNat / 64 % 64) (by omega)
      split
      · have h0 := toNat_ofNat_byte (n := 0xE0 + c.toNat / 4096) (by omega)
        exact .of_eq (.three ((utf8Unit3_iff _ _ _).2 (by omega))) (char_ofNat (by omega))
      · have h0 := toNat_ofNat_byte (n := 0xF0 + c.toNat / 262144) (by omega)
        have h3 := toNat_ofNat_byte (n := 0x80 + c.toNat / 4096 % 64) (by omega)
        exact .of_eq (.four ((utf8Unit4_iff _ _ _ _).2 (by omega))) (char_ofNat (by omega))

/-- A scalar value has one unit, the one the encoder writes: no row holds an overlong form. -/
theorem UnitOf.utf8EncodeChar_eq {u : Bytes} {c : Char} (h : UnitOf u c) : utf8EncodeChar c = u := by
  cases h with
  | @one b0 h =>
    rw [utf8Unit1_iff] at h
    have hn : (utf8Char1 b0).toNat = _ := toNat_char_ofNat (by omega)
    rw [utf8EncodeChar, hn, if_pos h, ofNat_byte rfl]
  | @two b0 b1 h =>
    rw [utf8Unit2_iff] at h
    have hn : (utf8Char2 b0 b1).toNat = _ := toNat_char_ofNat (by omega)
    rw [utf8EncodeChar, hn, if_neg (by omega), if_pos (by omega), ofNat_byte (b := b0) (by omega),
      ofNat_byte (b := b1) (by omega)]
  | @three b0 b1 b2 h =>
    rw [utf8Unit3_iff] at h
    have hn : (utf8Char3 b0 b1 b2).toNat = _ := toNat_char_ofNat (by omega)
    rw [utf8EncodeChar, hn, if_neg (by omega), if_neg (by omega), if_pos (by omega),
      ofNat_byte (b := b0) (by omega), ofNat_byte (b := b1) (by omega), ofNat_byte (b := b2) (by omega)]
  | @four b0 b1 b2 b3 h =>
    rw [utf8Unit4_iff] at h
    have hn : (utf8Char4 b0 b1 b2 b3).toNat = _ := toNat_char_ofNat (by omega)
    rw [utf8EncodeChar, hn, if_neg (by omega), if_neg (by omega), if_neg (by omega),
      ofNat_byte (b := b0) (by omega), ofNat_byte (b := b1) (by omega), ofNat_byte (b := b2) (by omega),
      ofNat_byte (b := b3) (by omega)]

theorem unitsOf_utf8Encode (t : Text) : UnitsOf (utf8Encode t) t := by
  induction t with
  | nil => exact .nil
  | cons c t ih => exact .cons (unitOf_utf8EncodeChar c) ih

theorem UnitsOf.utf8Encode_eq {d : Bytes} {t : Text} (h : UnitsOf d t) : utf8Encode t = d := by
  induction h with
  | nil => rfl
  | cons hu _ ih => rw [utf8Encode, hu.utf8EncodeChar_eq, ih]

/-- Settles O32: the encoder writes the one sequence of units a text has. -/
theorem utf8RoundTrip : Obligations.Utf8RoundTrip :=
  ⟨fun t => utf8Decode_eq_some_iff.2 (unitsOf_utf8Encode t), fun _ _ h => (utf8Decode_eq_some_iff.1 h).utf8Encode_eq⟩

/-! ## The commands -/

/-- The stages (a) to (c) as the first that succeeds; stage (d) is what is left (R198). -/
theorem msgDec_eq (id : ID) (data : Bytes) : msgDec id data =
    (((jsonParse data).bind (typedMessage id)).or ((jsonParse data).map (.parsed id))).or (textMessage id data) := by
  unfold msgDec
  cases jsonParse data with
  | none => rfl
  | some v => cases h : typedMessage id v <;> simp [h]

theorem exec_msgDec_idle {s : State} (hidle : s.inflight = none) (id : ID) (data : Bytes) :
    exec (.msgDec id data) s = .next (okWith (.message (msgDec id data)) s) := answer_idle hidle _

/-- The schema of an ID, by comparing the ID (R199). -/
theorem typedMessage_eq_ite (id : ID) (v : JsonValue) : typedMessage id v =
    if id = .control then (Config.schemaControl v).map Message.control
    else if id = .config then (Config.schemaConfig v).map Message.config
    else if id = .status then (Config.schemaStatus v).map Message.status
    else none := by
  cases id <;> rfl

/-- Settles O29: the chain, with the schema of the ID written out. -/
theorem messageDecodeChain : Obligations.MessageDecodeChain := by
  refine ⟨fun _ => rfl, fun s id data hidle => ?_⟩
  rw [exec_msgDec_idle hidle, msgDec_eq, textMessage, funext (typedMessage_eq_ite id)]

theorem jsonParse_nil : jsonParse [] = none := rfl

theorem jsonParse_of_not_text {data : Bytes} (h : utf8Decode data = none) : jsonParse data = none := by
  unfold jsonParse
  rw [h]
  cases data <;> rfl

theorem msgDec_of_no_json {data : Bytes} (h : jsonParse data = none) (id : ID) :
    msgDec id data = textMessage id data := by
  rw [msgDec, h]

/-- Settles O30: neither is JSON, so the text stage answers. -/
theorem messageDecodeEmptyAndIllFormed : Obligations.MessageDecodeEmptyAndIllFormed := by
  refine fun s id hidle => ⟨?_, fun data hill => ?_⟩
  · rw [exec_msgDec_idle hidle, msgDec_of_no_json jsonParse_nil, textMessage, utf8Decode, Option.map_some]
  · have hnone : utf8Decode data = none :=
      Option.not_isSome_iff_eq_none.1 fun hsome => hill ((utf8AcceptsExactly data).1 hsome)
    rw [exec_msgDec_idle hidle, msgDec_of_no_json (jsonParse_of_not_text hnone), textMessage, hnone, Option.map_none]

/-- How a message ends whose ID is `i`, by its serializer's answer (R197, R242). -/
def bodyAnswer (s : State) (i : ID) : Except SerializationError Bytes → State
  | .ok body => okWith (.encoded i body) s
  | .error e => failedWith .serializationError (.serializationInfo e) s

theorem exec_msgEnc_idle {s : State} (hidle : s.inflight = none) (msg : Message) :
    exec (.msgEnc msg) s = .next (bodyAnswer s (msgId msg) (msgBody msg)) := by
  show whenIdle s _ = _
  rw [whenIdle_idle hidle]
  cases msgBody msg with
  | ok body => exact congrArg _ (finish_idle hidle _ _)
  | error e => exact congrArg _ (finish_idle hidle _ _)

/-- Settles O28: the body and the ID of each kind of message. -/
theorem messageEncode : Obligations.MessageEncode :=
  ⟨fun _ => rfl, fun _ hidle =>
    ⟨fun r => exec_msgEnc_idle hidle (.control r), fun r => exec_msgEnc_idle hidle (.config r),
      fun r => exec_msgEnc_idle hidle (.status r), fun i v => exec_msgEnc_idle hidle (.parsed i v),
      fun i t => exec_msgEnc_idle hidle (.unparsed i t)⟩⟩

end Sys2Proof.Machine

/-! The connection family: every sending command as a SLICE_SEND of the payload it hands over, what it leaves
unchanged, and the inbound queue (spec/44_connection.md). -/

namespace Sys2Proof.Machine

/-! ## The sending commands -/

/-- A command that hands a payload to the fragmenter is the SLICE_SEND of it (R221 to R223). -/
theorem exec_of_payloadOf {s : State} {i : Instr} {hdr : Header} {data : Bytes}
    (h : payloadOf s i = some (hdr, data)) : exec i s = exec (.sliceSend hdr data) s := by
  cases i with
  | sliceSend _ _ | write _ | writeOffset _ _ =>
    cases h
    rfl
  | writeMessage msg =>
    simp only [payloadOf] at h
    split at h <;> cases h
    rename_i hbody
    simp only [exec, execWriteMessage, hbody]
    rfl
  | flagsEnc _ | flagsDec _ | pixcfgEnc _ | pixcfgDec _ | idEnc _ | idDec _ | hdrEnc _ | hdrDec _ | pktDec _
  | msgEnc _ | msgDec _ _ | getIncoming => cases h

/-- Such a command begins, while idle, the send of its payload. -/
theorem send_begins {s : State} {i : Instr} {hdr : Header} {data : Bytes} (hidle : s.inflight = none)
    (h : payloadOf s i = some (hdr, data)) : ∃ u, exec i s = .next u ∧ SendBegins hdr data s u := by
  rw [exec_of_payloadOf h, exec_sliceSend_idle hidle]
  exact sliceSend_begins hidle hdr data

/-- A command of an idle framer that raises an error writes `RESULT` and nothing else (R250). -/
theorem raise_idle {s : State} (hidle : s.inflight = none) (st : Status) (info : Value) :
    whenIdle s (raise st info s) = .next (failedWith st info s) := by
  rw [whenIdle_idle hidle, raise, finish_idle hidle]
  rfl

/-- A message whose serializer fails ends its command before any datagram (R242). -/
theorem exec_writeMessage_error {s : State} {msg : Message} {e : SerializationError}
    (hidle : s.inflight = none) (hbody : msgBody msg = .error e) :
    exec (.writeMessage msg) s = .next (failedWith .serializationError (.serializationInfo e) s) := by
  simp only [exec, execWriteMessage, hbody]
  exact raise_idle hidle _ _

/-- A sending command has no payload only for a message whose serializer fails. -/
theorem payloadOf_eq_none {s : State} {i : Instr} (hi : Sends i = true) (h : payloadOf s i = none) :
    ∃ msg e, i = .writeMessage msg ∧ msgBody msg = .error e := by
  cases i with
  | sliceSend _ _ | write _ | writeOffset _ _ => cases h
  | writeMessage msg =>
    simp only [payloadOf] at h
    split at h <;> cases h
    rename_i e hbody
    exact ⟨msg, e, rfl, hbody⟩
  | flagsEnc _ | flagsDec _ | pixcfgEnc _ | pixcfgDec _ | idEnc _ | idDec _ | hdrEnc _ | hdrDec _ | pktDec _
  | msgEnc _ | msgDec _ _ | getIncoming => cases hi

/-- Settles O33: the payload of WRITE goes under the template at offset 0. -/
theorem writeSendsFromTemplate : Obligations.WriteSendsFromTemplate :=
  ⟨fun _ => rfl, fun _ _ hidle => ⟨exec_of_payloadOf rfl, send_begins hidle rfl⟩⟩

/-- Settles O34: the payload of WRITE_OFFSET goes under the template at the given offset. -/
theorem writeOffsetSendsFromTemplate : Obligations.WriteOffsetSendsFromTemplate :=
  ⟨fun _ => rfl, fun _ _ _ hidle => ⟨exec_of_payloadOf rfl, send_begins hidle rfl⟩⟩

/-- Settles O36, by the serializer's answer. -/
theorem writeMessageSendsBody : Obligations.WriteMessageSendsBody := by
  refine ⟨fun _ => rfl, fun s msg hidle => ?_⟩
  cases hbody : msgBody msg with
  | error e => exact ⟨_, exec_writeMessage_error hidle hbody, rfl⟩
  | ok body => exact send_begins hidle (by simp only [payloadOf, hbody])

/-! ## The frame of a send -/

theorem datagramOf_length (hdr : Header) (data : Bytes) (k n : Nat) (seq : BitVec 4) :
    (datagramOf hdr data k n seq).length
      = headerLength hdr.packetType + min 1440 (data.length - k * 1440) := by
  rw [datagramOf, List.length_append, hdrEnc_length, List.length_take, List.length_drop]
  rfl

/-- The first step of a send leaves the configuration, the queue and the inputs as they were (R226). -/
theorem SendBegins.frame {hdr : Header} {data : Bytes} {s u : State} (h : SendBegins hdr data s u) :
    u.cfgDest = s.cfgDest ∧ u.cfgPixcfg = s.cfgPixcfg ∧ u.cfgId = s.cfgId ∧ u.inq = s.inq ∧
      u.inputs = s.inputs := by
  unfold SendBegins at h
  split at h
  · subst h
    exact ⟨rfl, rfl, rfl, rfl, rfl⟩
  · obtain ⟨hdest, hpixcfg, hid, hinq, hinputs, -⟩ := h
    exact ⟨hdest, hpixcfg, hid, hinq, hinputs⟩

/-- The first step of a send leaves `SENDBUF` behind its datagram as it was (R173). -/
theorem SendBegins.sendbufByte_behind {hdr : Header} {data : Bytes} {s u : State} (h : SendBegins hdr data s u)
    {a : Nat} (ha : headerLength hdr.packetType + min 1440 data.length ≤ a) :
    sendbufByte u.sendbuf a = sendbufByte s.sendbuf a := by
  unfold SendBegins at h
  split at h
  · subst h
    rfl
  · obtain ⟨-, -, -, -, -, -, -, hbuf, -⟩ := h
    refine (hbuf a).trans (if_neg ?_)
    rw [datagramOf_length, firstTransfer, Nat.zero_mul, Nat.sub_zero]
    exact Nat.not_lt.2 ha

/-- A send of the empty payload writes `RESULT` alone (R176). -/
theorem SendBegins.of_nil {hdr : Header} {s u : State} (h : SendBegins hdr [] s u) :
    u = { s with result := u.result } := by
  rw [SendBegins, if_pos rfl] at h
  subst h
  rfl

/-- A command that answers a next state has met an idle framer (R35). -/
theorem inflight_of_exec_next {i : Instr} {s u : State} (h : exec i s = .next u) : s.inflight = none := by
  cases hbusy : s.inflight with
  | none => rfl
  | some t =>
    rw [exec_busy hbusy] at h
    cases h

/-- Settles O50, by whether the command has a payload; the send of one has a frame of its own. -/
theorem sendsFrame : Obligations.SendsFrame := by
  intro s u i hi h
  have hidle := inflight_of_exec_next h
  cases hp : payloadOf s i with
  | none =>
    obtain ⟨msg, e, rfl, hbody⟩ := payloadOf_eq_none hi hp
    rw [exec_writeMessage_error hidle hbody] at h
    cases h
    exact ⟨rfl, rfl, rfl, rfl, rfl, rfl⟩
  | some payload =>
    obtain ⟨hdr, data⟩ := payload
    obtain ⟨v, hv, hbegins⟩ := send_begins hidle hp
    obtain rfl : v = u := by
      rw [hv] at h
      exact Host.Outcome.next.inj h
    obtain ⟨hdest, hpixcfg, hid, hinq, hinputs⟩ := hbegins.frame
    refine ⟨hdest, hpixcfg, hid, hinq, hinputs, ?_, fun a => hbegins.sendbufByte_behind⟩
    rintro rfl
    exact hbegins.of_nil

/-! ## The inbound queue -/

theorem exec_getIncoming_nil {s : State} (hidle : s.inflight = none) (h : s.inq = []) :
    exec .getIncoming s = .next (failedWith .emptyQueue .nothing s) := by
  simp only [exec, execGetIncoming, h]
  exact raise_idle hidle _ _

theorem exec_getIncoming_cons {s : State} (hidle : s.inflight = none) {p : Packet} {rest : List Packet}
    (h : s.inq = p :: rest) :
    exec .getIncoming s = .next (okWith (.packet p) { s with inq := rest }) := by
  simp only [exec, execGetIncoming, h, whenIdle_idle hidle, retOk]
  exact congrArg _ (finish_idle (s := s.setInq rest) hidle _ _)

/-- Settles O37, by whether the queue is empty. -/
theorem getIncomingPopsHead : Obligations.GetIncomingPopsHead :=
  ⟨fun _ => rfl, fun _ hidle => ⟨exec_getIncoming_nil hidle, fun _ _ => exec_getIncoming_cons hidle⟩⟩

/-- Settles O51, by what GET_INCOMING answers for an empty queue and for one with a head. -/
theorem getIncomingFrame : Obligations.GetIncomingFrame := by
  intro s u h
  have hidle := inflight_of_exec_next h
  cases hinq : s.inq with
  | nil =>
    rw [exec_getIncoming_nil hidle hinq] at h
    cases h
    rfl
  | cons p rest =>
    rw [exec_getIncoming_cons hidle hinq] at h
    cases h
    rfl

/-- A datagram at the head of the inputs is delivered, whoever else could move (R37). -/
theorem step_datagram {s : State} {b : Bytes} {rest : List Input} (hin : s.inputs = .datagram b :: rest) :
    step s = .next (deliver b (s.setInputs rest)) := by
  simp only [step, hin]

/-- Settles O38: the step is the delivery, and a short datagram decodes to the empty packet. -/
theorem deliveryAppendsPacket : Obligations.DeliveryAppendsPacket :=
  fun _ _ _ hin => ⟨step_datagram hin, fun hshort => congrArg Prod.fst (pktDec_short ((isShort_iff _).2 hshort))⟩

end Sys2Proof.Machine

/-! The exceptions family: an idle framer with nothing to do, the commands that end at once, and the status codes
(spec/60_exceptions.md). -/

namespace Sys2Proof.Machine

/-! ## An idle framer -/

theorem framerStep_idle {s : State} (hidle : s.inflight = none) : framerStep s = .next s := by
  simp only [framerStep, hidle]

theorem step_silent {s : State} (hin : s.inputs = []) : step s = framerStep s := by
  simp only [step, hin]

/-- A pause of the environment is used up by the framer's step. -/
theorem step_quiet {s : State} {rest : List Input} (hin : s.inputs = .quiet :: rest) :
    step s = framerStep (s.setInputs rest) := by
  simp only [step, hin]

/-- Settles O44: with no command presented the step is the framer's own, and an idle framer does nothing. -/
theorem idleStepHoldsState : Obligations.IdleStepHoldsState := by
  refine fun s hidle => ⟨fun hin => ?_, fun rest hin => ?_⟩
  · rw [step_silent hin, framerStep_idle hidle]
  · rw [step_quiet hin, framerStep_idle (s := s.setInputs rest) hidle]
    rfl

/-! ## Commands and deliveries that complete -/

/-- Settles O46, by the ways in which the commands of an idle framer end. -/
theorem everyCommandCompletes : Obligations.EveryCommandCompletes :=
  fun _ i hidle => exec_completes hidle i

@[simp] theorem deliver_result (b : Bytes) (s : State) : (deliver b s).result = s.result := rfl

/-- Each of the six decoders answers a value, whatever its operands (R247). -/
theorem exec_decoder_idle {s : State} (hidle : s.inflight = none) {b : Byte} {id : ID} {data : Bytes} {i : Instr}
    (hi : i ∈ [Instr.flagsDec b, .pixcfgDec b, .idDec b, .hdrDec data, .pktDec data, .msgDec id data]) :
    ∃ v, exec i s = .next (okWith v s) := by
  simp only [List.mem_cons, List.not_mem_nil, or_false] at hi
  obtain rfl | rfl | rfl | rfl | rfl | rfl := hi <;> exact ⟨_, answer_idle hidle _⟩

/-- Settles O47: a decoder answers its value, and the step of a delivery writes only the queue and the inputs. -/
theorem decodersNeverRaise : Obligations.DecodersNeverRaise :=
  ⟨fun _ _ _ _ hidle _ hi => exec_decoder_idle hidle hi,
    fun s data rest hin => ⟨_, step_datagram hin, deliver_result data (s.setInputs rest)⟩⟩

/-! ## Status codes -/

/-- Settles O48: each code is the table's (D2). -/
theorem statusCodeTable : Obligations.StatusCodeTable := ⟨rfl, rfl, rfl, rfl, rfl, rfl⟩

end Sys2Proof.Machine

/-! The reset family: what construction leaves, that no step writes the configuration, and that a write in progress
ends (spec/70_reset_and_hazards.md). -/

namespace Sys2Proof.Machine

/-! ## A write in progress ends -/

/-- A fragment reads no input, and it ends the write or leaves it with the next chunk, which then exists. -/
theorem sendFragment_ends_or_goesOn {t : Transfer} {s u : State} (h : sendFragment t s = .next u) :
    u.inputs = s.inputs ∧ (u.inflight = none ∨
      ∃ t', u.inflight = some t' ∧ t'.k = t.k + 1 ∧ t'.chunks = t.chunks ∧ t.k + 1 < t.chunks) := by
  obtain ⟨hdr, d, -, -, ⟨e, -, rfl⟩ | ⟨-, hmore, rfl⟩ | ⟨-, -, rfl⟩⟩ := sendFragment_cases h
  · exact ⟨rfl, .inl rfl⟩
  · exact ⟨rfl, .inr ⟨_, rfl, rfl, rfl, hmore⟩⟩
  · exact ⟨rfl, .inl rfl⟩

/-- With no input, the step of a write in progress is such a fragment. -/
theorem step_write_ends_or_goesOn {s : State} {t : Transfer} (ht : s.inflight = some t) (hin : s.inputs = []) :
    ∃ u, step s = .next u ∧ u.inputs = [] ∧ (u.inflight = none ∨
      ∃ t', u.inflight = some t' ∧ t'.k = t.k + 1 ∧ t'.chunks = t.chunks ∧ t.k + 1 < t.chunks) := by
  obtain ⟨u, hu⟩ := sendFragment_next t s
  obtain ⟨hinputs, hend⟩ := sendFragment_ends_or_goesOn hu
  exact ⟨u, (step_inflight ht hin).trans hu, hinputs.trans hin, hend⟩

/-- With no input and at most `left + 1` chunks left, `left + 1` steps are enough: each sends one chunk (R282). -/
theorem write_ends_within {s : State} {t : Transfer} {left : Nat} (ht : s.inflight = some t)
    (hin : s.inputs = []) (hleft : t.chunks ≤ t.k + (left + 1)) :
    ∃ n u, n ≤ left + 1 ∧ Host.Core.run Sys2Proof.core n s = .next u ∧ u.inflight = none := by
  induction left generalizing s t with
  | zero =>
    obtain ⟨u, hstep, -, hend | ⟨-, -, -, -, hmore⟩⟩ := step_write_ends_or_goesOn ht hin
    · exact ⟨1, u, Nat.le_refl 1, core_run_succ 0 hstep, hend⟩
    · omega
  | succ left ih =>
    obtain ⟨u, hstep, hinputs, hend | ⟨t', ht', hk, hchunks, -⟩⟩ := step_write_ends_or_goesOn ht hin
    · exact ⟨1, u, Nat.le_add_left 1 _, core_run_succ 0 hstep, hend⟩
    · obtain ⟨n, v, hn, hrun, hend⟩ := ih ht' hinputs (by omega)
      exact ⟨n + 1, v, Nat.succ_le_succ hn, (core_run_succ n hstep).trans hrun, hend⟩

/-- Settles O27, by induction on the chunks left. -/
theorem writeTerminates : Obligations.WriteTerminates := by
  intro s t ht hin hk
  obtain ⟨left, hleft⟩ := Nat.exists_eq_add_of_lt hk
  have hcount : t.chunks - t.k = left + 1 := by omega
  rw [hcount]
  exact write_ends_within ht hin hleft.le

/-! ## The configuration -/

/-- The three configuration elements of `u` are those of `s` (R23 to R25). -/
def SameConfig (s u : State) : Prop :=
  u.cfgDest = s.cfgDest ∧ u.cfgPixcfg = s.cfgPixcfg ∧ u.cfgId = s.cfgId

theorem sendFragment_sameConfig {t : Transfer} {s u : State} (h : sendFragment t s = .next u) :
    SameConfig s u := by
  obtain ⟨hdr, d, -, -, ⟨e, -, rfl⟩ | ⟨-, -, rfl⟩ | ⟨-, -, rfl⟩⟩ := sendFragment_cases h <;>
    exact ⟨rfl, rfl, rfl⟩

theorem CommandEffect.sameConfig {s u : State} (h : CommandEffect s u) : SameConfig s u := by
  cases h with
  | ends | pops => exact ⟨rfl, rfl, rfl⟩
  | sends _ _ _ _ hu => exact sendFragment_sameConfig hu

/-- Settles O53, by the four ways in which a step answers: none of them writes a configuration element. -/
theorem configurationNeverWritten : Obligations.ConfigurationNeverWritten := by
  intro s u h
  obtain ⟨b, rest, -, rfl⟩ | ⟨t, -, ins, -, hu⟩ | ⟨c, rest, -, -, hu⟩ | ⟨-, ins, -, rfl⟩ := step_cases h
  · exact ⟨rfl, rfl, rfl⟩
  · exact sendFragment_sameConfig (s := s.setInputs ins) hu
  · exact (runCommand_effect (s := s.setInputs rest) hu).sameConfig
  · exact ⟨rfl, rfl, rfl⟩

/-! ## Construction -/

theorem construct_some (a : Address) (content : Nat → Byte) (p : PixelConfig) (i : ID) :
    construct (some a) content p i = .created (State.fresh a content p i) := rfl

/-- A fresh framer has its whole buffer and counts from 1; its queue and history are empty, and it has neither a
write in progress nor a result. -/
theorem fresh_inv (a : Address) (content : Nat → Byte) (p : PixelConfig) (i : ID) :
    (State.fresh a content p i).Inv where
  seq_ne_zero := (by decide : seqMin ≠ 0)
  sendbuf_wf := fresh_sendbuf_wf a content p i
  inq_ok := List.forall_mem_nil _
  txlog_ok := List.forall_mem_nil _
  inflight_ok := by rintro _ ⟨⟩
  result_ok := by rintro _ ⟨⟩

theorem sendbufByte_fresh (a : Address) (content : Nat → Byte) (p : PixelConfig) (i : ID) (k : Nat) :
    sendbufByte (State.fresh a content p i).sendbuf k = if k < sendbufSize then some (content k) else none := by
  have h := contentFrom_getElem? content 0 sendbufSize k
  rwa [Nat.zero_add] at h

/-- Every string of `SENDBUF_SIZE` bytes is what some draw leaves in the buffer (I24). -/
theorem exists_fresh_sendbuf {buf : Bytes} (h : buf.length = sendbufSize) (a : Address) (p : PixelConfig)
    (i : ID) : ∃ content, (State.fresh a content p i).sendbuf = buf := by
  have hbuf := contentFrom_getD buf
  rw [h] at hbuf
  exact ⟨fun k => buf.getD k 0, hbuf⟩

/-- Settles O57: reset and every construction leave a fresh framer. -/
theorem invariantAfterConstruction : Obligations.InvariantAfterConstruction := by
  refine ⟨fresh_inv _ _ _ _, fun a content p i s h => ?_⟩
  rw [construct_some] at h
  cases h
  exact fresh_inv a content p i

/-- Settles O58, by the elements of a fresh framer. -/
theorem constructionState : Obligations.ConstructionState := by
  refine ⟨fun _ _ _ => rfl, fun a content p i => ?_, fun a p i buf hlen => ?_⟩
  · exact ⟨_, construct_some a content p i, rfl, rfl, rfl, rfl, sendbufByte_fresh a content p i, rfl, rfl, rfl, rfl⟩
  · obtain ⟨content, hbuf⟩ := exists_fresh_sendbuf hlen a p i
    exact ⟨content, _, construct_some a content p i, hbuf⟩

/-- Settles O59: reset is a construction with the default arguments, whose wire bytes the encoders give. -/
theorem resetState : Obligations.ResetState :=
  ⟨construct_some _ _ _ _, by decide, rfl, by decide, rfl, rfl, rfl, rfl, rfl⟩

end Sys2Proof.Machine
